-- ==== Sys2Proof/Word.lean ====
section
/-! DEFINITION. The word types of the machine: 8-bit bytes and registers (R32), 16-bit words (R35, R37, R39, R100)
and the number of a general register (R33). -/

namespace Sys2Proof

/-- A byte of memory, a general register, a timer (R32, R38, R70). -/
abbrev Byte := BitVec 8

/-- An opcode word, `PC`, `I` or a return address (R35, R37, R39, R40). -/
abbrev Word := BitVec 16

/-- The number of a general register: "always in 0..15 by construction" (R33). Also the number of a key (R44). -/
abbrev RegIdx := Fin 16

end Sys2Proof
end

