-- ==== Sys2Proof/Syntax.lean ====
section
/-! DEFINITION. The 34 instructions (R106, R108), one constructor per row of spec/opcode_table.json, with their operands
as assembled (R103, R104). -/

namespace Sys2Proof

/-- An instruction. A register operand names one of 16 registers (R33). `nnn` is the 12-bit address zero-extended to
16 bits, `n` the sprite height as a count (R103); `Instr.wf` says which of their values an encoding admits. The `y` of
the two shifts is encoded and not read (R104). -/
inductive Instr where
  | cls
  | ret
  | jpAddr (nnn : Word)
  | callAddr (nnn : Word)
  | seVxByte (x : RegIdx) (nn : Byte)
  | sneVxByte (x : RegIdx) (nn : Byte)
  | seVxVy (x y : RegIdx)
  | ldVxByte (x : RegIdx) (nn : Byte)
  | addVxByte (x : RegIdx) (nn : Byte)
  | ldVxVy (x y : RegIdx)
  | orVxVy (x y : RegIdx)
  | andVxVy (x y : RegIdx)
  | xorVxVy (x y : RegIdx)
  | addVxVy (x y : RegIdx)
  | subVxVy (x y : RegIdx)
  | shrVxVy (x y : RegIdx)
  | subnVxVy (x y : RegIdx)
  | shlVxVy (x y : RegIdx)
  | sneVxVy (x y : RegIdx)
  | ldIAddr (nnn : Word)
  | jpV0Addr (nnn : Word)
  | rndVxByte (x : RegIdx) (nn : Byte)
  | drwVxVyNibble (x y : RegIdx) (n : Nat)
  | skpVx (x : RegIdx)
  | sknpVx (x : RegIdx)
  | ldVxDt (x : RegIdx)
  | ldVxK (x : RegIdx)
  | ldDtVx (x : RegIdx)
  | ldStVx (x : RegIdx)
  | addIVx (x : RegIdx)
  | ldFVx (x : RegIdx)
  | ldBVx (x : RegIdx)
  | ldMemVx (x : RegIdx)
  | ldVxMem (x : RegIdx)
deriving DecidableEq, Repr

end Sys2Proof
end

