-- ==== Sys2Proof/WellFormed.lean ====
section
/-! DEFINITION. Which instructions have an encoding: the operand ranges of R103. Register operands need no check (R33). -/

namespace Sys2Proof

/-- `NNN` is "a 12-bit address zero-extended to 16 bits, value 0..4095" (R103). -/
def addrFits (nnn : Word) : Bool := nnn.toNat ≤ 0x0FFF

/-- `N` is "a 4-bit count, 0..15" (R103). -/
def heightFits (n : Nat) : Bool := n ≤ 15

/-- The operands are ones the instruction's format can hold. -/
def Instr.wf : Instr → Bool
  | .cls => true
  | .ret => true
  | .jpAddr nnn => addrFits nnn
  | .callAddr nnn => addrFits nnn
  | .seVxByte _ _ => true
  | .sneVxByte _ _ => true
  | .seVxVy _ _ => true
  | .ldVxByte _ _ => true
  | .addVxByte _ _ => true
  | .ldVxVy _ _ => true
  | .orVxVy _ _ => true
  | .andVxVy _ _ => true
  | .xorVxVy _ _ => true
  | .addVxVy _ _ => true
  | .subVxVy _ _ => true
  | .shrVxVy _ _ => true
  | .subnVxVy _ _ => true
  | .shlVxVy _ _ => true
  | .sneVxVy _ _ => true
  | .ldIAddr nnn => addrFits nnn
  | .jpV0Addr nnn => addrFits nnn
  | .rndVxByte _ _ => true
  | .drwVxVyNibble _ _ n => heightFits n
  | .skpVx _ => true
  | .sknpVx _ => true
  | .ldVxDt _ => true
  | .ldVxK _ => true
  | .ldDtVx _ => true
  | .ldStVx _ => true
  | .addIVx _ => true
  | .ldFVx _ => true
  | .ldBVx _ => true
  | .ldMemVx _ => true
  | .ldVxMem _ => true

end Sys2Proof
end

