-- ==== Sys2Proof/Decode.lean ====
section
/-! DEFINITION. Decoding, total on any bytes and refusing by name (R105, R107), then the encoder and the opcode map
(R101, R102, R106). -/

namespace Sys2Proof

/-! ## Words and bytes -/

/-- Big-endian: "memory[pc] (high byte) and memory[pc+1] (low byte)" (R75). -/
def wordOfBytes (hi lo : Byte) : Word := hi ++ lo

/-- The two bytes of a word, in the order memory holds them (R75). -/
def wordBytes (w : Word) : List Byte := [w.extractLsb' 8 8, w.extractLsb' 0 8]

/-! ## Fields (R101) -/

/-- `op`, `w[15:12]`. -/
def fieldOp (w : Word) : Nat := (w.extractLsb' 12 4).toNat

/-- `X`, `w[11:8]`. -/
def fieldX (w : Word) : RegIdx := (w.extractLsb' 8 4).toFin

/-- `Y`, `w[7:4]`. -/
def fieldY (w : Word) : RegIdx := (w.extractLsb' 4 4).toFin

/-- `N`, `w[3:0]`. -/
def fieldN (w : Word) : Nat := (w.extractLsb' 0 4).toNat

/-- `NN`, `w[7:0]`. -/
def fieldNN (w : Word) : Byte := w.extractLsb' 0 8

/-- `NNN`, `w[11:0]`, assembled: `zext_16(w[11:0])` (R103). -/
def fieldNNN (w : Word) : Word := (w.extractLsb' 0 12).setWidth 16

/-! ## The decoder -/

/-- Why bytes are no instruction: too few of them (R100), or one of the five groups of illegal words of R107. -/
inductive Reject where
  /-- Fewer than two bytes. -/
  | tooShort
  /-- `0x0000`..`0x0FFF` other than `0x00E0` and `0x00EE`. -/
  | zeroFamily (w : Word)
  /-- `0x5XYn` or `0x9XYn` with `n` not 0. -/
  | registerSkip (w : Word)
  /-- `0x8XYn` with `n` in 8..D or F. -/
  | aluSub (w : Word)
  /-- `0xEXnn` with `nn` neither 9E nor A1. -/
  | keySub (w : Word)
  /-- `0xFXnn` with `nn` in none of the nine F rows. -/
  | miscSub (w : Word)
deriving DecidableEq, Repr

/-- `8XYn`: the sub-opcode is the bottom nibble (R105). -/
def decodeAlu (w : Word) : Except Reject Instr :=
  match fieldN w with
  | 0x0 => .ok (.ldVxVy (fieldX w) (fieldY w))
  | 0x1 => .ok (.orVxVy (fieldX w) (fieldY w))
  | 0x2 => .ok (.andVxVy (fieldX w) (fieldY w))
  | 0x3 => .ok (.xorVxVy (fieldX w) (fieldY w))
  | 0x4 => .ok (.addVxVy (fieldX w) (fieldY w))
  | 0x5 => .ok (.subVxVy (fieldX w) (fieldY w))
  | 0x6 => .ok (.shrVxVy (fieldX w) (fieldY w))
  | 0x7 => .ok (.subnVxVy (fieldX w) (fieldY w))
  | 0xE => .ok (.shlVxVy (fieldX w) (fieldY w))
  | _ => .error (.aluSub w)

/-- `EXnn`: the sub-opcode is the bottom byte (R105). -/
def decodeKey (w : Word) : Except Reject Instr :=
  match (fieldNN w).toNat with
  | 0x9E => .ok (.skpVx (fieldX w))
  | 0xA1 => .ok (.sknpVx (fieldX w))
  | _ => .error (.keySub w)

/-- `FXnn`: the sub-opcode is the bottom byte (R105). -/
def decodeMisc (w : Word) : Except Reject Instr :=
  match (fieldNN w).toNat with
  | 0x07 => .ok (.ldVxDt (fieldX w))
  | 0x0A => .ok (.ldVxK (fieldX w))
  | 0x15 => .ok (.ldDtVx (fieldX w))
  | 0x18 => .ok (.ldStVx (fieldX w))
  | 0x1E => .ok (.addIVx (fieldX w))
  | 0x29 => .ok (.ldFVx (fieldX w))
  | 0x33 => .ok (.ldBVx (fieldX w))
  | 0x55 => .ok (.ldMemVx (fieldX w))
  | 0x65 => .ok (.ldVxMem (fieldX w))
  | _ => .error (.miscSub w)

/-- `0nnn`: the whole word is fixed (R105). -/
def decodeZero (w : Word) : Except Reject Instr :=
  match w.toNat with
  | 0x00E0 => .ok .cls
  | 0x00EE => .ok .ret
  | _ => .error (.zeroFamily w)

/-- The decoder of R105: an exact match of every fixed nibble, by family. -/
def decodeWord (w : Word) : Except Reject Instr :=
  match fieldOp w with
  | 0x0 => decodeZero w
  | 0x1 => .ok (.jpAddr (fieldNNN w))
  | 0x2 => .ok (.callAddr (fieldNNN w))
  | 0x3 => .ok (.seVxByte (fieldX w) (fieldNN w))
  | 0x4 => .ok (.sneVxByte (fieldX w) (fieldNN w))
  | 0x5 => if fieldN w = 0 then .ok (.seVxVy (fieldX w) (fieldY w)) else .error (.registerSkip w)
  | 0x6 => .ok (.ldVxByte (fieldX w) (fieldNN w))
  | 0x7 => .ok (.addVxByte (fieldX w) (fieldNN w))
  | 0x8 => decodeAlu w
  | 0x9 => if fieldN w = 0 then .ok (.sneVxVy (fieldX w) (fieldY w)) else .error (.registerSkip w)
  | 0xA => .ok (.ldIAddr (fieldNNN w))
  | 0xB => .ok (.jpV0Addr (fieldNNN w))
  | 0xC => .ok (.rndVxByte (fieldX w) (fieldNN w))
  | 0xD => .ok (.drwVxVyNibble (fieldX w) (fieldY w) (fieldN w))
  | 0xE => decodeKey w
  | _ => decodeMisc w

/-- Decoding a byte sequence: two bytes, high byte first, and the bytes after them (R75, R100). -/
def decodeBytes : List Byte → Except Reject (Instr × List Byte)
  | hi :: lo :: rest =>
    match decodeWord (wordOfBytes hi lo) with
    | .ok i => .ok (i, rest)
    | .error e => .error e
  | _ => .error .tooShort

/-- The one word of a row of spec/opcode_table.json whose `nbits` bits are `w`; the bits above `nbits` are 0. -/
def tableWord (nbits w : Nat) : Word := BitVec.ofNat 16 (w % 2 ^ nbits)

/-- What the decoder reads from that word as memory holds it. -/
def decodeTableWord (nbits w : Nat) : Option Instr :=
  match decodeBytes (wordBytes (tableWord nbits w)) with
  | .ok (i, _) => some i
  | .error _ => none

/-! ## The encoder -/

/-- `match | NNN` (formats FIXED and NNN of R102). -/
def wordNNN (m nnn : Word) : Word := m ||| nnn

/-- `match | X<<8 | NN` (formats XNN and XSS of R102, the sub-opcode standing as NN). -/
def wordXNN (m : Word) (x : RegIdx) (nn : Byte) : Word :=
  m ||| (BitVec.ofNat 16 x.val <<< 8) ||| nn.setWidth 16

/-- `match | X<<8 | Y<<4 | N` (formats XY0, XYS and XYN of R102, the sub-opcode standing as N). -/
def wordXYN (m : Word) (x y : RegIdx) (n : Nat) : Word :=
  m ||| (BitVec.ofNat 16 x.val <<< 8) ||| (BitVec.ofNat 16 y.val <<< 4) ||| BitVec.ofNat 16 n

/-- The word of a well-formed instruction, from the "Encoding" line of each instruction's rule (R102, R106). -/
def encode : Instr → Word
  | .cls => 0x00E0
  | .ret => 0x00EE
  | .jpAddr nnn => wordNNN 0x1000 nnn
  | .callAddr nnn => wordNNN 0x2000 nnn
  | .seVxByte x nn => wordXNN 0x3000 x nn
  | .sneVxByte x nn => wordXNN 0x4000 x nn
  | .seVxVy x y => wordXYN 0x5000 x y 0
  | .ldVxByte x nn => wordXNN 0x6000 x nn
  | .addVxByte x nn => wordXNN 0x7000 x nn
  | .ldVxVy x y => wordXYN 0x8000 x y 0
  | .orVxVy x y => wordXYN 0x8000 x y 1
  | .andVxVy x y => wordXYN 0x8000 x y 2
  | .xorVxVy x y => wordXYN 0x8000 x y 3
  | .addVxVy x y => wordXYN 0x8000 x y 4
  | .subVxVy x y => wordXYN 0x8000 x y 5
  | .shrVxVy x y => wordXYN 0x8000 x y 6
  | .subnVxVy x y => wordXYN 0x8000 x y 7
  | .shlVxVy x y => wordXYN 0x8000 x y 0xE
  | .sneVxVy x y => wordXYN 0x9000 x y 0
  | .ldIAddr nnn => wordNNN 0xA000 nnn
  | .jpV0Addr nnn => wordNNN 0xB000 nnn
  | .rndVxByte x nn => wordXNN 0xC000 x nn
  | .drwVxVyNibble x y n => wordXYN 0xD000 x y n
  | .skpVx x => wordXNN 0xE000 x 0x9E
  | .sknpVx x => wordXNN 0xE000 x 0xA1
  | .ldVxDt x => wordXNN 0xF000 x 0x07
  | .ldVxK x => wordXNN 0xF000 x 0x0A
  | .ldDtVx x => wordXNN 0xF000 x 0x15
  | .ldStVx x => wordXNN 0xF000 x 0x18
  | .addIVx x => wordXNN 0xF000 x 0x1E
  | .ldFVx x => wordXNN 0xF000 x 0x29
  | .ldBVx x => wordXNN 0xF000 x 0x33
  | .ldMemVx x => wordXNN 0xF000 x 0x55
  | .ldVxMem x => wordXNN 0xF000 x 0x65

/-- The bytes of an instruction, as memory holds them (R75). -/
def encodeBytes (i : Instr) : List Byte := wordBytes (encode i)

/-! ## The opcode map (R106) -/

/-- A row of the opcode map: a word is this row's when `w & mask = value`. -/
structure OpcodeRow where
  mnemonic : String
  value : Word
  mask : Word
deriving DecidableEq, Repr

/-- The word matches the row (R106). -/
def OpcodeRow.hits (r : OpcodeRow) (w : Word) : Bool := w &&& r.mask == r.value

/-- The row of R106 an instruction stands in. -/
def Instr.row : Instr → OpcodeRow
  | .cls => ⟨"CLS", 0x00E0, 0xFFFF⟩
  | .ret => ⟨"RET", 0x00EE, 0xFFFF⟩
  | .jpAddr _ => ⟨"JP_addr", 0x1000, 0xF000⟩
  | .callAddr _ => ⟨"CALL_addr", 0x2000, 0xF000⟩
  | .seVxByte _ _ => ⟨"SE_Vx__byte", 0x3000, 0xF000⟩
  | .sneVxByte _ _ => ⟨"SNE_Vx__byte", 0x4000, 0xF000⟩
  | .seVxVy _ _ => ⟨"SE_Vx__Vy", 0x5000, 0xF00F⟩
  | .ldVxByte _ _ => ⟨"LD_Vx__byte", 0x6000, 0xF000⟩
  | .addVxByte _ _ => ⟨"ADD_Vx__byte", 0x7000, 0xF000⟩
  | .ldVxVy _ _ => ⟨"LD_Vx__Vy", 0x8000, 0xF00F⟩
  | .orVxVy _ _ => ⟨"OR_Vx__Vy", 0x8001, 0xF00F⟩
  | .andVxVy _ _ => ⟨"AND_Vx__Vy", 0x8002, 0xF00F⟩
  | .xorVxVy _ _ => ⟨"XOR_Vx__Vy", 0x8003, 0xF00F⟩
  | .addVxVy _ _ => ⟨"ADD_Vx__Vy", 0x8004, 0xF00F⟩
  | .subVxVy _ _ => ⟨"SUB_Vx__Vy", 0x8005, 0xF00F⟩
  | .shrVxVy _ _ => ⟨"SHR_Vx____Vy", 0x8006, 0xF00F⟩
  | .subnVxVy _ _ => ⟨"SUBN_Vx__Vy", 0x8007, 0xF00F⟩
  | .shlVxVy _ _ => ⟨"SHL_Vx____Vy", 0x800E, 0xF00F⟩
  | .sneVxVy _ _ => ⟨"SNE_Vx__Vy", 0x9000, 0xF00F⟩
  | .ldIAddr _ => ⟨"LD_I__addr", 0xA000, 0xF000⟩
  | .jpV0Addr _ => ⟨"JP_V0__addr", 0xB000, 0xF000⟩
  | .rndVxByte _ _ => ⟨"RND_Vx__byte", 0xC000, 0xF000⟩
  | .drwVxVyNibble _ _ _ => ⟨"DRW_Vx__Vy__nibble", 0xD000, 0xF000⟩
  | .skpVx _ => ⟨"SKP_Vx", 0xE09E, 0xF0FF⟩
  | .sknpVx _ => ⟨"SKNP_Vx", 0xE0A1, 0xF0FF⟩
  | .ldVxDt _ => ⟨"LD_Vx__DT", 0xF007, 0xF0FF⟩
  | .ldVxK _ => ⟨"LD_Vx__K", 0xF00A, 0xF0FF⟩
  | .ldDtVx _ => ⟨"LD_DT__Vx", 0xF015, 0xF0FF⟩
  | .ldStVx _ => ⟨"LD_ST__Vx", 0xF018, 0xF0FF⟩
  | .addIVx _ => ⟨"ADD_I__Vx", 0xF01E, 0xF0FF⟩
  | .ldFVx _ => ⟨"LD_F__Vx", 0xF029, 0xF0FF⟩
  | .ldBVx _ => ⟨"LD_B__Vx", 0xF033, 0xF0FF⟩
  | .ldMemVx _ => ⟨"LD__I___Vx", 0xF055, 0xF0FF⟩
  | .ldVxMem _ => ⟨"LD_Vx___I", 0xF065, 0xF0FF⟩

/-- The 34 rows of R106, in its order. -/
def opcodeMap : List OpcodeRow :=
  ([.cls, .ret, .jpAddr 0, .callAddr 0, .seVxByte 0 0, .sneVxByte 0 0, .seVxVy 0 0, .ldVxByte 0 0, .addVxByte 0 0,
    .ldVxVy 0 0, .orVxVy 0 0, .andVxVy 0 0, .xorVxVy 0 0, .addVxVy 0 0, .subVxVy 0 0, .shrVxVy 0 0, .subnVxVy 0 0,
    .shlVxVy 0 0, .sneVxVy 0 0, .ldIAddr 0, .jpV0Addr 0, .rndVxByte 0 0, .drwVxVyNibble 0 0 0, .skpVx 0, .sknpVx 0,
    .ldVxDt 0, .ldVxK 0, .ldDtVx 0, .ldStVx 0, .addIVx 0, .ldFVx 0, .ldBVx 0, .ldMemVx 0, .ldVxMem 0]
    : List Instr).map Instr.row

end Sys2Proof
end

