-- ==== Sys2Proof/Config.lean ====
section
/-! DEFINITION. What an implementation of this machine fixes, and the one value nothing fixes: the parameters of R8 and
R9, and the unconstrained `rand` input of R142. -/

namespace Sys2Proof

/-- What the engine does with an illegal word: `Fatal` (the default) raises DecodeError, `Skip` ("must be explicit
configuration, never silent") steps over it (R138). -/
inductive DecodeErrorPolicy where
  | fatal
  | skip
deriving DecidableEq, Repr

namespace Config

/-- Bytes of memory (R8, R70). -/
abbrev memSize : Nat := 4096

/-- The first address of the ROM, and the entry point (R8, R381). -/
abbrev romBase : Nat := 0x200

/-- Entries of the call stack (R8, R40). -/
abbrev stackDepth : Nat := 16

/-- The `rand` input of the n-th Step that takes one: "any of 0..255", an unconstrained draw (R142, I2). It has no
body, so nothing can be proved of the values. DESIGN CHOICE, safe: log entry 1. -/
opaque randDraw : Nat → Byte

end Config

end Sys2Proof
end

