-- ==== Sys2Proof/Machine/State.lean ====
section
/-! DEFINITION. The state of the machine (10_state.md), the faults it reports (60_exceptions.md), and the state after
reset (R50). Every piece of state of the spec is a field; all of it is plain data. -/

namespace Sys2Proof.Machine

/-- What an OutOfBoundsAccess names: "`addr` (or `key`)" (R340). -/
inductive BadAccess where
  /-- The lowest address outside memory (R82, R344). -/
  | addr (a : Nat)
  /-- A key index above 15 (R300, R302). -/
  | key (k : Byte)
deriving DecidableEq, Repr

/-- The five kinds of fault with their recorded values (R340). A Step that raises one answers a NEXT state in which RUN
is `faulted` of it (R346); the one operation that answers it as the outcome `fault` is a failed Load. -/
inductive Fault where
  /-- Raised by Load alone, for a ROM that does not fit (R380, R382). After it no VM state exists, so Load answers the
  outcome `fault`; safe. -/
  | loadError (len : Nat)
  /-- Raised by a Step that fetched an illegal word, under the policy `fatal` (R138, R341). Recorded in RUN; safe. -/
  | decodeError (opcode pc : Word)
  /-- Raised by 00EE with an empty stack (R171, R342). Recorded in RUN; safe. -/
  | stackUnderflow (opcode pc : Word)
  /-- Raised by 2NNN with 16 entries on the stack (R175, R343). Recorded in RUN; safe. -/
  | stackOverflow (opcode pc : Word)
  /-- Raised by a fetch above 4094 (no opcode recorded), by DXYN, FX33, FX55, FX65 outside memory and by EX9E, EXA1 with
  no such key (R344). Recorded in RUN; safe. -/
  | outOfBoundsAccess (access : BadAccess) (pc : Word) (opcode : Option Word)
deriving DecidableEq, Repr

/-- Why an operation is refused: nothing happens. -/
inductive Refusal where
  /-- An instruction without a meaning; no arm of `exec` answers it. Safe. -/
  | notModelled (mnemonic : String)
  /-- Raised by KeyUpdate for a single key above 15, which "is not a transaction of the interface and is refused (no
  state changes)" (R325). Safe. -/
  | noSuchKey (k : Nat)
  /-- Raised by every transaction but Load while no VM state exists: "no Step may follow it until a Load succeeds" (R382,
  R350; log entry 14). Safe. -/
  | noVmState
deriving DecidableEq, Repr

/-- The run state RUN (R45). -/
inductive RunState where
  | running
  /-- Suspended by FX0A; `x` is the register the wait will fill. -/
  | waiting (x : RegIdx)
  | faulted (f : Fault)
deriving DecidableEq, Repr

/-- MEM as a list of cells (address, byte), addresses strictly rising, none holding what an unlisted address reads as.
`Memory.wf` of Machine/Ops.lean says so, and `resetByte` there what an unlisted address reads as. -/
abbrev Memory := List Host.Cell

/-- DISP: 64 columns of 32 one-bit cells, `DISP[x][y]` (R41). -/
abbrev Display := Vector (Vector Bool 32) 64

/-- The state aggregate (R30), with the run state (R45), the explicit configuration of R138 and the model's two fields
for the `rand` input (R142, log entry 1). -/
structure State where
  /-- `V[0..15]` (R32); `V[15]` is the flag register vF (R34). -/
  v : Vector Byte 16
  /-- `I` (R37). -/
  i : Word
  /-- `PC`: the instruction being executed, or the next to fetch (R35, R133). -/
  pc : Word
  /-- `S`, the most recently pushed entry first (R40, log entry 5). -/
  stack : List Word
  /-- `MEM` (R70). -/
  mem : Memory
  /-- `DISP` (R41). -/
  disp : Display
  /-- `REDRAW` (R42). -/
  redraw : Bool
  /-- `KEY[0..15]`, true is pressed (R44). -/
  key : Vector Bool 16
  /-- `DT`, delay_t (R38). -/
  dt : Byte
  /-- `ST`, sound_t (R38). -/
  st : Byte
  /-- `OPCODE`, the last fetched word (R39). -/
  opcode : Word
  /-- `RUN` (R45). -/
  run : RunState
  /-- `DECODE_ERROR_POLICY`, a configuration that nothing writes (R138, log entry 2). -/
  decodeErrorPolicy : DecodeErrorPolicy
  /-- The model's own: the `rand` input of the Step in progress (R142, log entry 1). -/
  rand : Byte
  /-- The model's own: how many `rand` inputs have been taken (log entry 1). -/
  draws : Nat
deriving DecidableEq, Repr

/-- The machine after Load of an empty ROM with the default FONT (R50, R380): the spec gives every value but those of
`rand` and `draws` (DESIGN CHOICE, log entry 1); the policy is the default of R138. -/
def State.reset : State where
  v := Vector.replicate 16 0x00
  i := 0x0000
  pc := 0x200
  stack := []
  mem := []
  disp := Vector.replicate 64 (Vector.replicate 32 false)
  redraw := false
  key := Vector.replicate 16 false
  dt := 0
  st := 0
  opcode := 0x0000
  run := .running
  decodeErrorPolicy := .fatal
  rand := 0
  draws := 0

end Sys2Proof.Machine
end

