-- ==== Sys2Proof/Machine/Ops.lean ====
section
/-! DEFINITION. The operations every meaning shares: memory, the registers, the display, the stack, the program counter,
the bounds check of a data access, and taking a fault. There is no return from a fault (R349): Load alone leaves
`faulted` (Machine/HostOps.lean). -/

namespace Sys2Proof.Machine

/-- The outcome of a step or a meaning. -/
abbrev Result := Host.Outcome State Fault Refusal

/-! ## Memory (20_memory.md) -/

/-- What an address that is not listed reads as: the image Load leaves for an empty ROM and the default FONT (R50, R73;
the zero bytes are the spec's decision D4, the font's default D5). -/
def resetByte (a : Nat) : Byte := defaultFont.getD a 0x00

namespace Memory

/-- The byte at `a`, for an address already checked (R76). -/
def read : Memory → Nat → Byte
  | [], a => resetByte a
  | (c, x) :: m, a => if a = c then x else read m a

/-- A cell put before `m`, unless it says what an unlisted address reads as. -/
def place (a : Nat) (b : Byte) (m : Memory) : Memory := if b = resetByte a then m else (a, b) :: m

/-- `MEM[a] <- b`, for an address already checked (R77), in canonical form. -/
def write : Memory → Nat → Byte → Memory
  | [], a, b => place a b []
  | (c, x) :: m, a, b =>
    if a < c then place a b ((c, x) :: m)
    else if a = c then place a b m
    else (c, x) :: write m a b

/-- The bytes `MEM[a] .. MEM[a + n - 1]`, lowest address first. -/
def readBytes (m : Memory) (a n : Nat) : List Byte := (List.range n).map fun k => read m (a + k)

/-- `MEM[a], MEM[a + 1], ... <- bs`, lowest address first. -/
def writeBytes : Memory → Nat → List Byte → Memory
  | m, _, [] => m
  | m, a, b :: bs => writeBytes (write m a b) (a + 1) bs

/-- The canonical form from address `lo` on: addresses rising and inside memory (R70), no cell that says what an
unlisted address reads as. -/
def wfFrom : Nat → Memory → Bool
  | _, [] => true
  | lo, (a, b) :: m => lo ≤ a && a < Config.memSize && b != resetByte a && wfFrom (a + 1) m

/-- The canonical form of memory. -/
def wf (m : Memory) : Bool := wfFrom 0 m

end Memory

/-- `Fetch(a)` (R78): the big-endian word at `a` and `a + 1`, or none where "two bytes must be in bounds" fails. -/
def fetchAt (m : Memory) (a : Nat) : Option Word :=
  if a > 4094 then none else some (wordOfBytes (m.read a) (m.read (a + 1)))

/-- The lowest address above 0xFFF among the `len` addresses from `base` on, if there is one: addresses are exact
integers, never wrapped (R80, R82); the address is `max(base, 0x1000)` as R247, R250, R253 and R276 say. -/
def lowestBad (base len : Nat) : Option Nat :=
  if 0 < len ∧ base + len - 1 > 0xFFF then some (max base 0x1000) else none

/-! ## Registers and the other fields -/

namespace State

/-- `V[x]` (R11, R32). -/
def getV (s : State) (x : RegIdx) : Byte := s.v.get x

/-- `V[x] <- b` (R11). -/
def setV (s : State) (x : RegIdx) (b : Byte) : State := { s with v := s.v.set x.val b x.isLt }

/-- All sixteen registers at once, for FX65. -/
def setVs (s : State) (v : Vector Byte 16) : State := { s with v := v }

/-- `I <- w`. -/
def setI (s : State) (w : Word) : State := { s with i := w }

/-- `PC <- w`. -/
def setPc (s : State) (w : Word) : State := { s with pc := w }

/-- `PC <- (PC + 2) mod 65536`, the step of a sequential instruction (R134). -/
def advance (s : State) : State := s.setPc (s.pc + 2)

/-- `PC <- PC + 4` if the condition holds, else `PC + 2`, mod 65536 (R134). -/
def skipIf (s : State) (c : Bool) : State := s.setPc (if c then s.pc + 4 else s.pc + 2)

/-- The call stack replaced. -/
def setStack (s : State) (st : List Word) : State := { s with stack := st }

/-- `S.push(w)` (R40). -/
def push (s : State) (w : Word) : State := s.setStack (w :: s.stack)

/-- Memory replaced. -/
def setMem (s : State) (m : Memory) : State := { s with mem := m }

/-- The display replaced. -/
def setDisp (s : State) (d : Display) : State := { s with disp := d }

/-- `REDRAW <- b`. -/
def setRedraw (s : State) (b : Bool) : State := { s with redraw := b }

/-- The sixteen key states replaced. -/
def setKey (s : State) (k : Vector Bool 16) : State := { s with key := k }

/-- `DT <- b`. -/
def setDt (s : State) (b : Byte) : State := { s with dt := b }

/-- `ST <- b`. -/
def setSt (s : State) (b : Byte) : State := { s with st := b }

/-- `OPCODE <- w`, by a successful fetch (R132). -/
def setOpcode (s : State) (w : Word) : State := { s with opcode := w }

/-- `RUN <- r`. -/
def setRun (s : State) (r : RunState) : State := { s with run := r }

/-- A Step takes its `rand` input (R142, log entry 1). -/
def takeRand (s : State) (r : Byte) : State := { s with rand := r, draws := s.draws + 1 }

end State

/-- `V[k], V[k + 1], ... <- bs`, as far as there are registers (FX65, R253). -/
def writeRegs (v : Vector Byte 16) : Nat → List Byte → Vector Byte 16
  | _, [] => v
  | k, b :: bs => writeRegs (v.setIfInBounds k b) (k + 1) bs

/-! ## Display cells -/

namespace Display

/-- `DISP[x][y]` (R41). -/
def cell (d : Display) (x : Fin 64) (y : Fin 32) : Bool := (d.get x).get y

/-- `DISP[x][y] <- DISP[x][y] ^ 1`. -/
def flip (d : Display) (x : Fin 64) (y : Fin 32) : Display :=
  d.set x.val ((d.get x).set y.val (!d.cell x y) y.isLt) x.isLt

/-- The column `n mod 64` (R278). -/
def column (n : Nat) : Fin 64 := ⟨n % 64, Nat.mod_lt n (by decide)⟩

/-- The row `n mod 32` (R278). -/
def line (n : Nat) : Fin 32 := ⟨n % 32, Nat.mod_lt n (by decide)⟩

/-- Every cell 0. -/
def blank : Display := Vector.replicate 64 (Vector.replicate 32 false)

end Display

/-! ## Faults (60_exceptions.md) -/

/-- Taking a fault (R345, R346): RUN becomes `faulted f` and nothing else changes; the state given is the one the
instruction began with, its OPCODE latched. No register is saved, no handler is entered. -/
def raise (f : Fault) (s : State) : Result := .next (s.setRun (.faulted f))

/-- An access to the `len` bytes from `base` on: `done` if all are inside memory, else OutOfBoundsAccess with the lowest
bad address and no effect (R80, R82, R344). -/
def checkSpan (base len : Nat) (s done : State) : Result :=
  match lowestBad base len with
  | some a => raise (.outOfBoundsAccess (.addr a) s.pc (some s.opcode)) s
  | none => .next done

end Sys2Proof.Machine
end

