-- ==== Sys2Proof/Machine/Operands.lean ====
section
/-! DEFINITION. The operand forms of R104 and R239: a register, a register as an address, a register as a key index, the
range `V[0]..V[X]`, and the addresses a memory instruction names. -/

namespace Sys2Proof.Machine

namespace State

/-- `V[0] + NNN`, the target of BNNN, mod 65536 (R185). -/
def jumpTarget (s : State) (nnn : Word) : Word := (s.getV 0).setWidth 16 + nnn

/-- `V[X] * 5`, the whole byte multiplied (R245). -/
def glyphAddr (s : State) (x : RegIdx) : Word := (s.getV x).setWidth 16 * 5

/-- `I + V[X]` mod 65536 (R243). -/
def indexPlus (s : State) (x : RegIdx) : Word := s.i + (s.getV x).setWidth 16

/-- The first address a memory instruction touches: `I + 0`, as an exact integer (R80, R239). -/
def indexAddr (s : State) : Nat := s.i.toNat

/-- `V[0]..V[X]`, inclusive (R104). -/
def regRange (s : State) (x : RegIdx) : List Byte := s.v.toList.take (x.val + 1)

/-- The key `V[X]` names, or none where it is above 15 (R300). -/
def keyOperand (s : State) (x : RegIdx) : Option (Fin 16) :=
  if h : (s.getV x).toNat < 16 then some ⟨(s.getV x).toNat, h⟩ else none

end State

/-- Hundreds, tens and ones of a byte, in the order they are stored (R247). -/
def bcdDigits (b : Byte) : List Byte :=
  [BitVec.ofNat 8 (b.toNat / 100), BitVec.ofNat 8 (b.toNat % 100 / 10), BitVec.ofNat 8 (b.toNat % 10)]

end Sys2Proof.Machine
end

