-- ==== Sys2Proof/Machine/ControlFlow.lean ====
section
/-! DEFINITION. Return, jumps, call and the register skips (41_control_flow.md). `PC` holds the instruction's own address
while it executes (R133). -/

namespace Sys2Proof.Machine

/-- RET (00EE), R171: the popped address plus 2, or StackUnderflow. -/
def execRet (s : State) : Result :=
  match s.stack with
  | [] => raise (.stackUnderflow 0x00EE s.pc) s
  | t :: rest => .next ((s.setStack rest).setPc (t + 2))

/-- JP addr (1NNN), R173. -/
def execJpAddr (nnn : Word) (s : State) : Result := .next (s.setPc nnn)

/-- CALL addr (2NNN), R175, R176: pushes the call's own address; StackOverflow with 16 entries held, before the push. -/
def execCallAddr (nnn : Word) (s : State) : Result :=
  if s.stack.length ≥ Config.stackDepth then raise (.stackOverflow s.opcode s.pc) s
  else .next ((s.push s.pc).setPc nnn)

/-- SE Vx, byte (3XNN), R177. -/
def execSeVxByte (x : RegIdx) (nn : Byte) (s : State) : Result := .next (s.skipIf (s.getV x == nn))

/-- SNE Vx, byte (4XNN), R179. -/
def execSneVxByte (x : RegIdx) (nn : Byte) (s : State) : Result := .next (s.skipIf (s.getV x != nn))

/-- SE Vx, Vy (5XY0), R181. -/
def execSeVxVy (x y : RegIdx) (s : State) : Result := .next (s.skipIf (s.getV x == s.getV y))

/-- SNE Vx, Vy (9XY0), R183. -/
def execSneVxVy (x y : RegIdx) (s : State) : Result := .next (s.skipIf (s.getV x != s.getV y))

/-- JP V0, addr (BNNN), R185. -/
def execJpV0Addr (nnn : Word) (s : State) : Result := .next (s.setPc (s.jumpTarget nnn))

end Sys2Proof.Machine
end

