-- ==== Sys2Proof/Machine/Flags.lean ====
section
/-! DEFINITION. The flag values of R46 and the flagged write of R201. -/

namespace Sys2Proof.Machine

/-- A flag as a register value: 1 or 0. -/
def flagByte (b : Bool) : Byte := if b then 1 else 0

/-- Carry of `a + b`: 1 if the exact sum is above 255 (R210). -/
def carryFlag (a b : Byte) : Byte := flagByte (decide (a.toNat + b.toNat > 255))

/-- No borrow of `a - b`: 1 if `a >= b` (R211, R214). -/
def noBorrowFlag (a b : Byte) : Byte := flagByte (decide (a.toNat ≥ b.toNat))

/-- The bit a right shift drops: `a & 1` (R212). -/
def shrFlag (a : Byte) : Byte := flagByte (a.getLsbD 0)

/-- The bit a left shift drops: `(a >> 7) & 1` (R216). -/
def shlFlag (a : Byte) : Byte := flagByte (a.getLsbD 7)

/-- The flag register (R34). -/
def vF : RegIdx := 15

/-- The flag first, the result second, so that with `x` = F the result stays (R201; the order is the spec's decision
D11). -/
def State.setFlagged (s : State) (x : RegIdx) (flag result : Byte) : State := (s.setV vF flag).setV x result

end Sys2Proof.Machine
end

