-- ==== Sys2Proof/Machine/DisplayOps.lean ====
section
/-! DEFINITION. Display clear and sprite drawing (44_display.md). -/

namespace Sys2Proof.Machine

/-- One sprite bit at a cell: a set bit toggles it and reports a hit where it was 1; a clear bit does nothing (R276,
R277). The pair is the display and `hit`. -/
def drawBit (bit : Bool) (x : Fin 64) (y : Fin 32) (p : Display × Bool) : Display × Bool :=
  if bit then (Display.flip p.1 x y, p.2 || Display.cell p.1 x y) else p

/-- One sprite row: column `c` is bit `7 - c`, drawn at `(x0 + c) mod 64` (R276, R277; the bit order is the spec's
decision D15). -/
def drawRow (b : Byte) (x0 : Nat) (y : Fin 32) (p : Display × Bool) : Display × Bool :=
  (List.range 8).foldl (fun p c => drawBit (b.getLsbD (7 - c)) (Display.column (x0 + c)) y p) p

/-- The rows of a sprite, row `r` at `(y0 + r) mod 32` (R276, R278). -/
def drawRows (x0 : Nat) : Nat → List Byte → Display × Bool → Display × Bool
  | _, [], p => p
  | y, b :: bs, p => drawRows x0 (y + 1) bs (drawRow b x0 (Display.line y) p)

/-- The sprite of DXYN on a state: `N` bytes from `I`, at (`V[X]`, `V[Y]`) as they were before vF is written (R276). -/
def drawSprite (x y : RegIdx) (n : Nat) (s : State) : Display × Bool :=
  drawRows (s.getV x).toNat (s.getV y).toNat (s.mem.readBytes s.indexAddr n) (s.disp, false)

/-- CLS (00E0), R270. -/
def execCls (s : State) : Result := .next ((s.setDisp Display.blank).setRedraw true).advance

/-- DRW Vx, Vy, nibble (DXYN), R276 to R283: `N` rows are read and checked, none when `N` is 0 (C1, R280). -/
def execDrwVxVyNibble (x y : RegIdx) (n : Nat) (s : State) : Result :=
  checkSpan s.indexAddr n s
    ((((s.setDisp (drawSprite x y n s).1).setV vF (flagByte (drawSprite x y n s).2)).setRedraw true).advance)

end Sys2Proof.Machine
end

