-- ==== Sys2Proof/Machine/IndexMemory.lean ====
section
/-! DEFINITION. The index register and the memory load and store instructions (43_index_memory.md). No instruction here
changes `I` by an access (R239), and a store or load checks all its addresses first (R82). -/

namespace Sys2Proof.Machine

/-- A value into `I`, PC + 2 (R240, R243, R245). -/
def writeIndex (w : Word) (s : State) : Result := .next (s.setI w).advance

/-- Bytes stored from `I` on, PC + 2, or OutOfBoundsAccess and nothing stored (R80, R82). -/
def storeAtIndex (bs : List Byte) (s : State) : Result :=
  checkSpan s.indexAddr bs.length s (s.setMem (s.mem.writeBytes s.indexAddr bs)).advance

/-- LD I, addr (ANNN), R240. -/
def execLdIAddr (nnn : Word) (s : State) : Result := writeIndex nnn s

/-- ADD I, Vx (FX1E), R243: mod 65536, vF not written, no bounds check. -/
def execAddIVx (x : RegIdx) (s : State) : Result := writeIndex (s.indexPlus x) s

/-- LD F, Vx (FX29), R245. -/
def execLdFVx (x : RegIdx) (s : State) : Result := writeIndex (s.glyphAddr x) s

/-- LD B, Vx (FX33), R247. -/
def execLdBVx (x : RegIdx) (s : State) : Result := storeAtIndex (bcdDigits (s.getV x)) s

/-- LD [I], Vx (FX55), R250: `V[0]..V[X]`, inclusive. -/
def execLdMemVx (x : RegIdx) (s : State) : Result := storeAtIndex (s.regRange x) s

/-- LD Vx, [I] (FX65), R253: `V[0]..V[X]`, inclusive. -/
def execLdVxMem (x : RegIdx) (s : State) : Result :=
  checkSpan s.indexAddr (x.val + 1) s
    (s.setVs (writeRegs s.v 0 (s.mem.readBytes s.indexAddr (x.val + 1)))).advance

end Sys2Proof.Machine
end

