-- ==== Sys2Proof/Machine/InputTimers.lean ====
section
/-! DEFINITION. The key skips, the timer registers and the wait for a key (45_input_timers.md). -/

namespace Sys2Proof.Machine

/-- A skip on the key that `V[X]` names: taken where its state is `pressed`; OutOfBoundsAccess where there is no such key
(R300, R302; the fault is the spec's decision D18). -/
def skipOnKey (x : RegIdx) (pressed : Bool) (s : State) : Result :=
  match s.keyOperand x with
  | some k => .next (s.skipIf (s.key.get k == pressed))
  | none => raise (.outOfBoundsAccess (.key (s.getV x)) s.pc (some s.opcode)) s

/-- SKP Vx (EX9E), R300. -/
def execSkpVx (x : RegIdx) (s : State) : Result := skipOnKey x true s

/-- SKNP Vx (EXA1), R302. -/
def execSknpVx (x : RegIdx) (s : State) : Result := skipOnKey x false s

/-- LD Vx, DT (FX07), R304. -/
def execLdVxDt (x : RegIdx) (s : State) : Result := .next (s.setV x s.dt).advance

/-- LD Vx, K (FX0A), R310: suspends; PC and `V[X]` are written when a key press completes the wait (R311). -/
def execLdVxK (x : RegIdx) (s : State) : Result := .next (s.setRun (.waiting x))

/-- LD DT, Vx (FX15), R306. -/
def execLdDtVx (x : RegIdx) (s : State) : Result := .next (s.setDt (s.getV x)).advance

/-- LD ST, Vx (FX18), R308. -/
def execLdStVx (x : RegIdx) (s : State) : Result := .next (s.setSt (s.getV x)).advance

end Sys2Proof.Machine
end

