-- ==== Sys2Proof/Machine/RegisterAlu.lean ====
section
/-! DEFINITION. Register loads, arithmetic and logic (42_register_alu.md). Every operand is read from the state before the
instruction (R201); every instruction here advances PC by 2 and raises nothing. -/

namespace Sys2Proof.Machine

/-- A result into `V[X]`, no flag, PC + 2 (R202 to R209). -/
def writeResult (x : RegIdx) (b : Byte) (s : State) : Result := .next (s.setV x b).advance

/-- A flag into vF, then a result into `V[X]`, PC + 2 (R201, R210 to R216). -/
def writeFlagged (x : RegIdx) (flag b : Byte) (s : State) : Result := .next (s.setFlagged x flag b).advance

/-- LD Vx, byte (6XNN), R202. -/
def execLdVxByte (x : RegIdx) (nn : Byte) (s : State) : Result := writeResult x nn s

/-- ADD Vx, byte (7XNN), R204: vF is not written (the spec's decision D13). -/
def execAddVxByte (x : RegIdx) (nn : Byte) (s : State) : Result := writeResult x (s.getV x + nn) s

/-- LD Vx, Vy (8XY0), R206. -/
def execLdVxVy (x y : RegIdx) (s : State) : Result := writeResult x (s.getV y) s

/-- OR Vx, Vy (8XY1), R207. -/
def execOrVxVy (x y : RegIdx) (s : State) : Result := writeResult x (s.getV x ||| s.getV y) s

/-- AND Vx, Vy (8XY2), R208. -/
def execAndVxVy (x y : RegIdx) (s : State) : Result := writeResult x (s.getV x &&& s.getV y) s

/-- XOR Vx, Vy (8XY3), R209. -/
def execXorVxVy (x y : RegIdx) (s : State) : Result := writeResult x (s.getV x ^^^ s.getV y) s

/-- ADD Vx, Vy (8XY4), R210. -/
def execAddVxVy (x y : RegIdx) (s : State) : Result :=
  writeFlagged x (carryFlag (s.getV x) (s.getV y)) (s.getV x + s.getV y) s

/-- SUB Vx, Vy (8XY5), R211. -/
def execSubVxVy (x y : RegIdx) (s : State) : Result :=
  writeFlagged x (noBorrowFlag (s.getV x) (s.getV y)) (s.getV x - s.getV y) s

/-- SHR Vx (8XY6), R212: the source is `V[X]`, `Y` is not read. -/
def execShrVxVy (x _y : RegIdx) (s : State) : Result :=
  writeFlagged x (shrFlag (s.getV x)) (s.getV x >>> 1) s

/-- SUBN Vx, Vy (8XY7), R214. -/
def execSubnVxVy (x y : RegIdx) (s : State) : Result :=
  writeFlagged x (noBorrowFlag (s.getV y) (s.getV x)) (s.getV y - s.getV x) s

/-- SHL Vx (8XYE), R216: the source is `V[X]`, `Y` is not read. -/
def execShlVxVy (x _y : RegIdx) (s : State) : Result :=
  writeFlagged x (shlFlag (s.getV x)) (s.getV x <<< 1) s

/-- RND Vx, byte (CXNN), R224: the Step's `rand` input AND NN (C4; log entry 1). -/
def execRndVxByte (x : RegIdx) (nn : Byte) (s : State) : Result := writeResult x (s.rand &&& nn) s

end Sys2Proof.Machine
end

