-- ==== Sys2Proof/Machine/Engine.lean ====
section
/-! DEFINITION. The Step transaction: fetch, decode, execute (40_engine_cycle.md), with its result. -/

namespace Sys2Proof.Machine

/-- An illegal word `w`, already latched in OPCODE (R138): DecodeError under the policy `fatal`, PC + 2 under `skip`. -/
def illegal (w : Word) (s : State) : Result :=
  match s.decodeErrorPolicy with
  | .fatal => raise (.decodeError w s.pc) s
  | .skip => .next s.advance

/-- Decode and execute a fetched word, already latched in OPCODE (R131). -/
def decodeExecute (w : Word) (s : State) : Result :=
  match decodeWord w with
  | .ok i => exec i s
  | .error _ => illegal w s

/-- The cycle of a running core (R131): the bounds of the fetch, the fetch into OPCODE (R132), decode, execute; in this
order of faults (R348). -/
def cycle (s : State) : Result :=
  match fetchAt s.mem s.pc.toNat with
  | none => raise (.outOfBoundsAccess (.addr s.pc.toNat) s.pc none) s
  | some w => decodeExecute w (s.setOpcode w)

/-- `Step(rand)` (R131): nothing changes while waiting (R143) or faulted (R144). -/
def stepRand (r : Byte) (s : State) : Result :=
  match s.run with
  | .running => cycle (s.takeRand r)
  | .waiting _ => .next s
  | .faulted _ => .next s

/-- What a Step reports (R139). -/
inductive StepResult where
  | executed
  | waiting
  | decodeSkipped (opcode pc : Word)
  | fault (f : Fault)
deriving DecidableEq, Repr

/-- The report of the Step that led from `s` to `t`: the fault or wait it left (R131, R139, R143, R144), else whether the
word it latched was skipped as illegal (R138). -/
def stepResult (s t : State) : StepResult :=
  match t.run with
  | .faulted f => .fault f
  | .waiting _ => .waiting
  | .running =>
    match decodeWord t.opcode with
    | .ok _ => .executed
    | .error _ => .decodeSkipped t.opcode s.pc

end Sys2Proof.Machine
end

