-- ==== Sys2Proof/Machine/Step.lean ====
section
/-! DEFINITION. One step of the machine: the Step transaction with its `rand` input drawn (R142), and where the next
instruction is fetched from. -/

namespace Sys2Proof.Machine

/-- `Step` (R131) with the next unconstrained `rand` input (R142, log entry 1). -/
def step (s : State) : Host.Outcome State Fault Refusal := stepRand (Config.randDraw s.draws) s

/-- `s` with the one-word instruction of `nbits` bits `w` where `step` fetches next: at PC, RUN being `running`, and PC
moved to the entry point where a fetch at it would be out of bounds. -/
def State.withFetchWord (s : State) (nbits w : Nat) : State :=
  let pc : Word := if s.pc.toNat > 4094 then 0x200 else s.pc
  ((s.setRun .running).setPc pc).setMem (s.mem.writeBytes pc.toNat (wordBytes (tableWord nbits w)))

end Sys2Proof.Machine
end

