-- ==== Sys2Proof/Machine/HostOps.lean ====
section
/-! DEFINITION. The host's transactions other than Step: Load (70_reset_and_hazards.md), Tick and KeyUpdate
(45_input_timers.md), DisplayRead and DisplayAck (44_display.md), and all six as one function (R130). -/

namespace Sys2Proof.Machine

/-! ## Load -/

/-- The memory Load leaves: FONT from 0, the ROM from 0x200, 0x00 elsewhere (R380, R73). -/
def loadImage (font : Vector Byte 80) (rom : List Byte) : Memory :=
  (Memory.writeBytes [] 0 font.toList).writeBytes Config.romBase rom

/-- `Load(rom)` (R380): every piece of VM state takes its value of R50, whatever the old state was; a ROM that does not
fit is a LoadError and leaves no VM state (R382). The configured policy and the count of `rand` inputs taken are no VM
state and stay (log entries 1 and 2). -/
def load (font : Vector Byte 80) (rom : List Byte) (s : State) : Result :=
  if Config.romBase + rom.length > Config.memSize then .fault (.loadError rom.length)
  else .next { State.reset with
    mem := loadImage font rom, decodeErrorPolicy := s.decodeErrorPolicy, rand := s.rand, draws := s.draws }

/-! ## Tick -/

/-- A count one lower, never below 0 (R320). -/
def countDown (b : Byte) : Byte := if b = 0 then 0 else b - 1

/-- `Tick` on the state (R320), in every run state (R321). -/
def tick (s : State) : State := (s.setDt (countDown s.dt)).setSt (countDown s.st)

/-- The tone a Tick returns: ST non-zero before the decrement (R322). -/
def tickTone (s : State) : Bool := s.st != 0

/-! ## KeyUpdate -/

/-- "set a single key index (0-15) pressed/released, or bulk-replace all 16" (R325). -/
inductive KeyChange where
  | single (k : Nat) (pressed : Bool)
  | bulk (keys : Vector Bool 16)
deriving DecidableEq, Repr

/-- The keys after a change; a single change that names no key is refused (R325). -/
def KeyChange.apply (u : KeyChange) (old : Vector Bool 16) : Except Refusal (Vector Bool 16) :=
  match u with
  | .single k p => if h : k < 16 then .ok (old.set k p h) else .error (.noSuchKey k)
  | .bulk keys => .ok keys

/-- The press events of a change, lowest key first: released before, pressed after (R311, R325). -/
def pressEvents (old new : Vector Bool 16) : List RegIdx :=
  (List.finRange 16).filter fun j => !old.get j && new.get j

/-- A wait for `V[x]` completes with key `j` (R311). -/
def completeWait (x : RegIdx) (j : RegIdx) (s : State) : State :=
  ((s.setV x (BitVec.ofNat 8 j.val)).advance).setRun .running

/-- The press events `p` delivered to the core: the first wait they end takes one of them, which one being the draw
`pick` (R311, log entry 4); a core that does not wait takes none (R325). -/
def deliverPresses (p : List RegIdx) (pick : Nat) (s : State) : State :=
  match s.run, p[pick % p.length]? with
  | .waiting x, some j => completeWait x j s
  | _, _ => s

/-- `KeyUpdate` (R325); `pick` is the draw among several press events. -/
def keyUpdate (u : KeyChange) (pick : Nat) (s : State) : Result :=
  match u.apply s.key with
  | .ok new => .next (deliverPresses (pressEvents s.key new) pick (s.setKey new))
  | .error e => .refused e

/-! ## DisplayRead and DisplayAck -/

/-- `DisplayRead` (R285): the cells and REDRAW, as a copy. -/
def displayRead (s : State) : Display × Bool := (s.disp, s.redraw)

/-- `DisplayAck` (R286). -/
def displayAck (s : State) : State := s.setRedraw false

/-! ## All transactions -/

/-- The six transactions (R130) with their inputs; `rand` and `pick` are the draws of R142 and R311. -/
inductive Transaction where
  | load (font : Vector Byte 80) (rom : List Byte)
  | step (rand : Byte)
  | tick
  | keyUpdate (u : KeyChange) (pick : Nat)
  | displayRead
  | displayAck
deriving DecidableEq, Repr

/-- What a transaction returns to the host (R130). -/
inductive Reply where
  | ok
  | stepped (r : StepResult)
  | tone (t : Bool)
  | refused (r : Refusal)
  /-- LoadError (R382). -/
  | failed (f : Fault)
  | display (d : Display) (redraw : Bool)
deriving DecidableEq, Repr

/-- A result with its reply: the reply of the state reached, a refusal with nothing changed, a fault with no state. -/
def withReply (s : State) (r : Result) (reply : State → Reply) : Host.Outcome (State × Reply) Fault Refusal :=
  match r with
  | .next t => .next (t, reply t)
  | .refused e => .next (s, .refused e)
  | .fault f => .fault f

/-- One transaction: the state after it and what the host is told. The outcome `fault` is a failed Load (R382). -/
def transact (t : Transaction) (s : State) : Host.Outcome (State × Reply) Fault Refusal :=
  match t with
  | .load font rom => withReply s (load font rom s) fun _ => .ok
  | .step r => withReply s (stepRand r s) fun u => .stepped (stepResult s u)
  | .tick => .next (tick s, .tone (tickTone s))
  | .keyUpdate u pick => withReply s (keyUpdate u pick s) fun _ => .ok
  | .displayRead => .next (s, .display (displayRead s).1 (displayRead s).2)
  | .displayAck => .next (displayAck s, .ok)

/-! ## The core as the host holds it, with or without a VM state -/

/-- What the model carries that is no VM state, and so outlives a failed Load: the configured policy (log entry 2) and the
fields for the `rand` input (log entry 1). -/
structure Carried where
  decodeErrorPolicy : DecodeErrorPolicy
  rand : Byte
  draws : Nat
deriving DecidableEq, Repr

/-- The part of a state that is no VM state. -/
def State.carried (s : State) : Carried := ⟨s.decodeErrorPolicy, s.rand, s.draws⟩

/-- The reset state with what is carried: what Load is given where no VM state exists. -/
def Carried.fresh (c : Carried) : State :=
  { State.reset with decodeErrorPolicy := c.decodeErrorPolicy, rand := c.rand, draws := c.draws }

/-- The core between two transactions: "a Load that fails builds no state" (R382), so there may be none. -/
inductive Vm where
  | absent (c : Carried)
  | present (s : State)
deriving DecidableEq, Repr

/-- A transaction's outcome as the host meets it: the next state, no state after a failed Load (R382), the same core after
a refusal. -/
def Vm.settle (v : Vm) (c : Carried) (r : Host.Outcome (State × Reply) Fault Refusal) : Vm × Reply :=
  match r with
  | .next (s, reply) => (.present s, reply)
  | .fault f => (.absent c, .failed f)
  | .refused e => (v, .refused e)

/-- One transaction of the host. Where no VM state exists Load alone is accepted (R382, R350; log entry 14). -/
def transactVm (t : Transaction) (v : Vm) : Vm × Reply :=
  match v with
  | .present s => Vm.settle v s.carried (transact t s)
  | .absent c =>
    match t with
    | .load font rom => Vm.settle v c (transact (.load font rom) c.fresh)
    | .step _ => (v, .refused .noVmState)
    | .tick => (v, .refused .noVmState)
    | .keyUpdate _ _ => (v, .refused .noVmState)
    | .displayRead => (v, .refused .noVmState)
    | .displayAck => (v, .refused .noVmState)

/-- A sequence of transactions, the host's input to the core (R141), whole whatever fails in it: the core after it and the
replies in order. -/
def transactAll : List Transaction → Vm → Vm × List Reply
  | [], v => (v, [])
  | t :: ts, v => ((transactAll ts (transactVm t v).1).1, (transactVm t v).2 :: (transactAll ts (transactVm t v).1).2)

end Sys2Proof.Machine
end

