-- ==== Sys2Proof/Safety.lean ====
section
/-! DEFINITION. What claims mean by a sound state, a faulted one and a reachable one. -/

namespace Sys2Proof.Machine

/-- The address a fault records, where it records one (R340). -/
def Fault.pc? : Fault → Option Word
  | .loadError _ => none
  | .decodeError _ pc => some pc
  | .stackUnderflow _ pc => some pc
  | .stackOverflow _ pc => some pc
  | .outOfBoundsAccess _ pc _ => some pc

/-- The opcode a fault records, where it records one (R340). -/
def Fault.opcode? : Fault → Option Word
  | .loadError _ => none
  | .decodeError w _ => some w
  | .stackUnderflow w _ => some w
  | .stackOverflow w _ => some w
  | .outOfBoundsAccess _ _ w => w

/-- The code of a fault kind (R340). -/
def Fault.code : Fault → Nat
  | .loadError _ => 1
  | .decodeError _ _ => 2
  | .stackUnderflow _ _ => 3
  | .stackOverflow _ _ => 4
  | .outOfBoundsAccess _ _ _ => 5

/-- What holds of every state a run reaches: memory in canonical form; "stack depth never exceeds 16" (R40); a waiting
core still stands at the FX0A it fetched, `x` being that word's register (R310, R143); a faulted core still stands at
the faulting instruction, whose address and word the fault records, unless its fetch was out of bounds (R345, R346). -/
structure StateInv (s : State) : Prop where
  memory : s.mem.wf = true
  depth : s.stack.length ≤ 16
  wait : ∀ x, s.run = .waiting x → decodeWord s.opcode = .ok (.ldVxK x) ∧ s.pc.toNat ≤ 4094
  fault : ∀ f, s.run = .faulted f → f.pc? = some s.pc ∧ (s.pc.toNat ≤ 4094 → f.opcode? = some s.opcode)

/-- The core has taken a fault: "a faulted run is never a successful end" (I8). -/
def State.isFaulted (s : State) : Bool :=
  match s.run with
  | .faulted _ => true
  | .running => false
  | .waiting _ => false

/-- A core some sequence of transactions leads to (R141): from no VM state, as before the first Load, from State.reset,
and on through a failed Load to the next that succeeds (R382). -/
inductive ReachableVm : Vm → Prop where
  | unloaded (c : Carried) : ReachableVm (.absent c)
  | reset : ReachableVm (.present State.reset)
  | transact {v : Vm} (t : Transaction) : ReachableVm v → ReachableVm (transactVm t v).1

/-- A state of such a core. -/
def Reachable (s : State) : Prop := ReachableVm (.present s)

end Sys2Proof.Machine
end

