-- ==== Sys2Proof/Certificates/Slice0/Obligations.lean ====
section
/-! DEFINITION. The statements for the provers, by the sections of spec/. A docstring names the rule a statement
formalises and, where the rule is the spec's own decision (D<n>) or the model's choice (a log entry), says so. -/

open Sys2Proof Sys2Proof.Machine

/-! ## Encoding (30_encoding.md) -/

/-- Words written out from the patterns of R106 (the X and other vectors of 95_test_vectors.md) decode to the
instruction each stands for, and illegal words of R107 to none. -/
def Obligations.WrittenWordsDecode : Prop :=
  decodeWord 0x00E0 = .ok .cls ∧ decodeWord 0x00EE = .ok .ret ∧ decodeWord 0x1228 = .ok (.jpAddr 0x228) ∧
  decodeWord 0x3342 = .ok (.seVxByte 3 0x42) ∧ decodeWord 0x5120 = .ok (.seVxVy 1 2) ∧
  decodeWord 0x812E = .ok (.shlVxVy 1 2) ∧ decodeWord 0xBFFF = .ok (.jpV0Addr 0xFFF) ∧
  decodeWord 0xD125 = .ok (.drwVxVyNibble 1 2 5) ∧ decodeWord 0xE5A1 = .ok (.sknpVx 5) ∧
  decodeWord 0xF20A = .ok (.ldVxK 2) ∧ decodeWord 0x0123 = .error (.zeroFamily 0x0123) ∧
  decodeWord 0x5121 = .error (.registerSkip 0x5121) ∧ decodeWord 0x800F = .error (.aluSub 0x800F) ∧
  decodeWord 0xE09F = .error (.keySub 0xE09F) ∧ decodeWord 0xF0FF = .error (.miscSub 0xF0FF)

/-- Decoding the word of any well-formed instruction gives it back, every operand at every value (R101 to R106). -/
def Obligations.DecodeOfEncodeIsTheInstruction : Prop :=
  ∀ i : Instr, i.wf = true → decodeWord (encode i) = .ok i

/-- A word that decodes is the word of what it decodes to, which is well-formed: each legal word has one meaning
(R105, R106). -/
def Obligations.EncodeOfDecodeIsTheWord : Prop :=
  ∀ (w : Word) (i : Instr), decodeWord w = .ok i → encode i = w ∧ i.wf = true

/-- The decoder is the opcode map of R106: an instruction comes from the row its word matches, every word that matches
a row comes from that row, the map has 34 rows, and no word matches two. The masks are marked derived in the spec. -/
def Obligations.DecoderFollowsTheOpcodeMap : Prop :=
  (∀ (w : Word) (i : Instr), decodeWord w = .ok i → i.row ∈ opcodeMap ∧ w &&& i.row.mask = i.row.value) ∧
  (∀ (w : Word) (r : OpcodeRow), r ∈ opcodeMap → w &&& r.mask = r.value → ∃ i, decodeWord w = .ok i ∧ i.row = r) ∧
  (∀ (w : Word) (r r' : OpcodeRow), r ∈ opcodeMap → r' ∈ opcodeMap → w &&& r.mask = r.value →
    w &&& r'.mask = r'.value → r = r') ∧
  opcodeMap.length = 34

/-- The illegal words are exactly the five groups of R107. -/
def Obligations.IllegalWordsAreTheFiveGroups : Prop :=
  ∀ w : Word, (∃ e, decodeWord w = .error e) ↔
    (w.toNat < 0x1000 ∧ w ≠ 0x00E0 ∧ w ≠ 0x00EE) ∨
    ((w.toNat / 0x1000 = 5 ∨ w.toNat / 0x1000 = 9) ∧ w.toNat % 16 ≠ 0) ∨
    (w.toNat / 0x1000 = 8 ∧ w.toNat % 16 ∈ [0x8, 0x9, 0xA, 0xB, 0xC, 0xD, 0xF]) ∨
    (w.toNat / 0x1000 = 0xE ∧ w.toNat % 256 ∉ [0x9E, 0xA1]) ∨
    (w.toNat / 0x1000 = 0xF ∧ w.toNat % 256 ∉ [0x07, 0x0A, 0x15, 0x18, 0x1E, 0x29, 0x33, 0x55, 0x65])

/-! ## Register loads, arithmetic and logic (42_register_alu.md) -/

/-- LD Vx, byte (R202): its encoding, and the whole next state. -/
def Obligations.LoadByteWritesTheRegister : Prop :=
  ∀ (x : RegIdx) (nn : Byte) (s : State),
    encode (.ldVxByte x nn) = 0x6000 ||| (BitVec.ofNat 16 x.val <<< 8) ||| nn.setWidth 16 ∧
    exec (.ldVxByte x nn) s = .next { s with v := s.v.set x.val nn x.isLt, pc := s.pc + 2 }

/-- ADD Vx, byte (R204): the sum mod 256, no other register (vF among them, unless it is Vx), nothing else. That vF is
not written is the spec's decision D13. -/
def Obligations.AddByteWrapsAndKeepsFlag : Prop :=
  ∀ (x : RegIdx) (nn : Byte) (s : State), ∃ t,
    exec (.addVxByte x nn) s = .next t ∧
    (t.v.get x).toNat = ((s.v.get x).toNat + nn.toNat) % 256 ∧
    (∀ r, r ≠ x → t.v.get r = s.v.get r) ∧
    t = { s with v := t.v, pc := s.pc + 2 }

/-- LD Vx, Vy (R206): its encoding, and the whole next state. -/
def Obligations.CopyRegisterWritesTheRegister : Prop :=
  ∀ (x y : RegIdx) (s : State),
    encode (.ldVxVy x y) = 0x8000 ||| (BitVec.ofNat 16 x.val <<< 8) ||| (BitVec.ofNat 16 y.val <<< 4) ∧
    exec (.ldVxVy x y) s = .next { s with v := s.v.set x.val (s.v.get y) x.isLt, pc := s.pc + 2 }

/-- OR, AND, XOR (R207, R208, R209): each bit of the result; vF is not written (the spec's decision D12). -/
def Obligations.LogicIsBitwiseAndKeepsFlag : Prop :=
  ∀ (x y : RegIdx) (s : State), ∃ t u w,
    exec (.orVxVy x y) s = .next t ∧ exec (.andVxVy x y) s = .next u ∧ exec (.xorVxVy x y) s = .next w ∧
    (∀ k, (t.v.get x).getLsbD k = ((s.v.get x).getLsbD k || (s.v.get y).getLsbD k)) ∧
    (∀ k, (u.v.get x).getLsbD k = ((s.v.get x).getLsbD k && (s.v.get y).getLsbD k)) ∧
    (∀ k, (w.v.get x).getLsbD k = ((s.v.get x).getLsbD k ^^ (s.v.get y).getLsbD k)) ∧
    (∀ r, r ≠ x → t.v.get r = s.v.get r ∧ u.v.get r = s.v.get r ∧ w.v.get r = s.v.get r) ∧
    t = { s with v := t.v, pc := s.pc + 2 } ∧ u = { s with v := u.v, pc := s.pc + 2 } ∧
    w = { s with v := w.v, pc := s.pc + 2 }

/-- ADD Vx, Vy (R210): "add-with-carry flag = 1 iff a+b > 255; result = (a+b) mod 256", operands read first; with
X = F vF keeps the sum (the spec's decision D11). -/
def Obligations.AddRegistersSetsCarry : Prop :=
  ∀ (x y : RegIdx) (s : State), ∃ t,
    exec (.addVxVy x y) s = .next t ∧
    (t.v.get x).toNat = ((s.v.get x).toNat + (s.v.get y).toNat) % 256 ∧
    (x ≠ 15 → t.v.get 15 = if (s.v.get x).toNat + (s.v.get y).toNat > 255 then 1 else 0) ∧
    (∀ r, r ≠ x → r ≠ 15 → t.v.get r = s.v.get r) ∧
    t = { s with v := t.v, pc := s.pc + 2 }

/-- SUB and SUBN (R211, R214): vF is 1 when there is no borrow, the difference is mod 256, operands read first; with
X = F vF keeps the difference (the spec's decision D11). -/
def Obligations.SubtractsSetNoBorrow : Prop :=
  ∀ (x y : RegIdx) (s : State), ∃ t u,
    exec (.subVxVy x y) s = .next t ∧ exec (.subnVxVy x y) s = .next u ∧
    ((t.v.get x).toNat : Int) = (((s.v.get x).toNat : Int) - (s.v.get y).toNat) % 256 ∧
    ((u.v.get x).toNat : Int) = (((s.v.get y).toNat : Int) - (s.v.get x).toNat) % 256 ∧
    (x ≠ 15 → t.v.get 15 = if (s.v.get x).toNat ≥ (s.v.get y).toNat then 1 else 0) ∧
    (x ≠ 15 → u.v.get 15 = if (s.v.get y).toNat ≥ (s.v.get x).toNat then 1 else 0) ∧
    (∀ r, r ≠ x → r ≠ 15 → t.v.get r = s.v.get r ∧ u.v.get r = s.v.get r) ∧
    t = { s with v := t.v, pc := s.pc + 2 } ∧ u = { s with v := u.v, pc := s.pc + 2 }

/-- SHR and SHL (R212, R216): the source is Vx whatever Y is, vF is the bit shifted out; with X = F vF keeps the result
(the spec's decision D11). -/
def Obligations.ShiftsMoveVxAndSetTheBitLost : Prop :=
  ∀ (x y : RegIdx) (s : State), ∃ t u,
    exec (.shrVxVy x y) s = .next t ∧ exec (.shlVxVy x y) s = .next u ∧
    (t.v.get x).toNat = (s.v.get x).toNat / 2 ∧ (u.v.get x).toNat = (s.v.get x).toNat * 2 % 256 ∧
    (x ≠ 15 → (t.v.get 15).toNat = (s.v.get x).toNat % 2 ∧ (u.v.get 15).toNat = (s.v.get x).toNat / 128) ∧
    (∀ r, r ≠ x → r ≠ 15 → t.v.get r = s.v.get r ∧ u.v.get r = s.v.get r) ∧
    t = { s with v := t.v, pc := s.pc + 2 } ∧ u = { s with v := u.v, pc := s.pc + 2 }

/-- RND Vx, byte (R224, R142): a Step whose `rand` input is `r` executes it with `r`, for every `r`, and the result is
`r AND NN`. The `rand` field is the model's own (log entry 1); nothing is said of the value it has at reset. -/
def Obligations.RandomByteIsAndedWithNN : Prop :=
  ∀ (x : RegIdx) (nn r : Byte) (s : State),
    exec (.rndVxByte x nn) s = .next { s with v := s.v.set x.val (s.rand &&& nn) x.isLt, pc := s.pc + 2 } ∧
    (s.run = .running → s.pc.toNat ≤ 4094 →
      decodeWord (s.mem.read s.pc.toNat ++ s.mem.read (s.pc.toNat + 1)) = .ok (.rndVxByte x nn) →
      ∃ t, stepRand r s = .next t ∧ t.v.get x = r &&& nn ∧ t.pc = s.pc + 2)

/-! ## Control flow (41_control_flow.md) -/

/-- RET (R171): both branches, and its word. -/
def Obligations.ReturnPopsAndAddsTwo : Prop :=
  encode .ret = 0x00EE ∧
  (∀ (s : State) (a : Word) (rest : List Word), s.stack = a :: rest →
    exec .ret s = .next { s with stack := rest, pc := a + 2 }) ∧
  (∀ s : State, s.stack = [] → exec .ret s = .next { s with run := .faulted (.stackUnderflow 0x00EE s.pc) })

/-- JP addr (R173): its encoding, the whole next state, and the fault of the next fetch for the target 0xFFF. -/
def Obligations.JumpSetsPc : Prop :=
  ∀ (nnn : Word) (s : State),
    encode (.jpAddr nnn) = 0x1000 ||| nnn ∧ exec (.jpAddr nnn) s = .next { s with pc := nnn } ∧
    (s.run = .running → nnn = 0xFFF → ∀ r : Byte, ∃ u, stepRand r { s with pc := nnn } = .next u ∧
      u.run = .faulted (.outOfBoundsAccess (.addr 0xFFF) 0xFFF none))

/-- CALL addr (R175, R176): pushes its own address while fewer than 16 entries are held, else StackOverflow and nothing
else (the check before the push is the spec's decision D27). -/
def Obligations.CallPushesItsOwnAddress : Prop :=
  ∀ (nnn : Word) (s : State),
    (s.stack.length < 16 → exec (.callAddr nnn) s = .next { s with stack := s.pc :: s.stack, pc := nnn }) ∧
    (s.stack.length = 16 → exec (.callAddr nnn) s = .next { s with run := .faulted (.stackOverflow s.opcode s.pc) })

/-- "A call at pc=0x200 pushes 0x200 and jumps to NNN; the matching return resumes execution at 0x202" (W8): from any
call that succeeds, a return with the stack as the call left it resumes after the call, with the stack as before. -/
def Obligations.ReturnUndoesCall : Prop :=
  ∀ (nnn : Word) (s t u : State), s.stack.length < 16 → exec (.callAddr nnn) s = .next t → u.stack = t.stack →
    ∃ w, exec .ret u = .next w ∧ w.pc = s.pc + 2 ∧ w.stack = s.stack

/-- SE and SNE with a byte and with a register (R177, R179, R181, R183): PC + 4 or PC + 2 and nothing else; the conditions
are the spec's decision D37. -/
def Obligations.SkipsCompareTheirOperands : Prop :=
  ∀ (x y : RegIdx) (nn : Byte) (s : State),
    exec (.seVxByte x nn) s = .next { s with pc := if s.v.get x = nn then s.pc + 4 else s.pc + 2 } ∧
    exec (.sneVxByte x nn) s = .next { s with pc := if s.v.get x ≠ nn then s.pc + 4 else s.pc + 2 } ∧
    exec (.seVxVy x y) s = .next { s with pc := if s.v.get x = s.v.get y then s.pc + 4 else s.pc + 2 } ∧
    exec (.sneVxVy x y) s = .next { s with pc := if s.v.get x ≠ s.v.get y then s.pc + 4 else s.pc + 2 }

/-- JP V0, addr (R185): its encoding, `V[0]` whatever the X nibble, and the whole next state; for a well-formed NNN the
sum is exact and at most 0x10FE, and a target above 4094 faults at the next fetch. -/
def Obligations.OffsetJumpAddsV0 : Prop :=
  ∀ (nnn : Word) (s : State),
    encode (.jpV0Addr nnn) = 0xB000 ||| nnn ∧
    ∃ t, exec (.jpV0Addr nnn) s = .next t ∧ t = { s with pc := t.pc } ∧
      t.pc.toNat = ((s.v.get 0).toNat + nnn.toNat) % 65536 ∧ (nnn.toNat ≤ 0xFFF → t.pc.toNat = (s.v.get 0).toNat + nnn.toNat ∧ t.pc.toNat ≤ 0x10FE) ∧
      (s.run = .running → t.pc.toNat > 4094 → ∀ r : Byte, ∃ u, stepRand r t = .next u ∧
        u.run = .faulted (.outOfBoundsAccess (.addr t.pc.toNat) t.pc none))

/-- How each instruction that completes sets PC (R134): the classes of the rule, with the conditions the skip rules
give and the wait that ends in a KeyUpdate. -/
def Obligations.EachInstructionSetsPcByItsClass : Prop :=
  (∀ (i : Instr) (s t : State), s.run = .running → exec i s = .next t → t.isFaulted = false →
    t.pc = match i with
      | .seVxByte x nn => if s.v.get x = nn then s.pc + 4 else s.pc + 2
      | .sneVxByte x nn => if s.v.get x ≠ nn then s.pc + 4 else s.pc + 2
      | .seVxVy x y => if s.v.get x = s.v.get y then s.pc + 4 else s.pc + 2
      | .sneVxVy x y => if s.v.get x ≠ s.v.get y then s.pc + 4 else s.pc + 2
      | .skpVx x => if s.key.toList.getD (s.v.get x).toNat false = true then s.pc + 4 else s.pc + 2
      | .sknpVx x => if s.key.toList.getD (s.v.get x).toNat false = false then s.pc + 4 else s.pc + 2
      | .jpAddr nnn => nnn
      | .jpV0Addr nnn => (s.v.get 0).setWidth 16 + nnn
      | .callAddr nnn => nnn
      | .ret => s.stack.headD 0 + 2
      | .ldVxK _ => s.pc
      | _ => s.pc + 2) ∧
  (∀ (x : RegIdx) (u : KeyChange) (pick : Nat) (s t : State), s.run = .waiting x → keyUpdate u pick s = .next t →
    t.run = .running → t.pc = s.pc + 2)

/-! ## Index register and memory (43_index_memory.md, 20_memory.md) -/

/-- LD I, addr (R240): its encoding, and the whole next state. -/
def Obligations.LoadIndexWritesNNN : Prop :=
  ∀ (nnn : Word) (s : State),
    encode (.ldIAddr nnn) = 0xA000 ||| nnn ∧ exec (.ldIAddr nnn) s = .next { s with i := nnn, pc := s.pc + 2 }

/-- ADD I, Vx (R243): the sum mod 65536, no flag, no bounds check (the spec's decisions D9, D13). -/
def Obligations.AddIndexWrapsAt65536 : Prop :=
  ∀ (x : RegIdx) (s : State), ∃ t, exec (.addIVx x) s = .next t ∧
    t.i.toNat = (s.i.toNat + (s.v.get x).toNat) % 65536 ∧ t = { s with i := t.i, pc := s.pc + 2 }

/-- LD F, Vx (R245): its encoding, the whole byte times 5, and the whole next state. -/
def Obligations.GlyphAddressIsFiveTimesVx : Prop :=
  ∀ (x : RegIdx) (s : State),
    encode (.ldFVx x) = 0xF029 ||| (BitVec.ofNat 16 x.val <<< 8) ∧
    ∃ t, exec (.ldFVx x) s = .next t ∧ t.i.toNat = (s.v.get x).toNat * 5 ∧ t = { s with i := t.i, pc := s.pc + 2 }

/-- LD B, Vx (R247): the three digits at I, I+1, I+2 and no other byte, or OutOfBoundsAccess and no byte (the spec's
decisions D6, D13). -/
def Obligations.DecimalDigitsAreStoredAtI : Prop :=
  ∀ (x : RegIdx) (s : State), s.mem.wf = true →
    (s.i.toNat + 2 ≤ 0xFFF → ∃ t, exec (.ldBVx x) s = .next t ∧
      (t.mem.read s.i.toNat).toNat = (s.v.get x).toNat / 100 ∧
      (t.mem.read (s.i.toNat + 1)).toNat = (s.v.get x).toNat % 100 / 10 ∧
      (t.mem.read (s.i.toNat + 2)).toNat = (s.v.get x).toNat % 10 ∧
      (∀ a, a < s.i.toNat ∨ s.i.toNat + 2 < a → t.mem.read a = s.mem.read a) ∧
      t = { s with mem := t.mem, pc := s.pc + 2 }) ∧
    (s.i.toNat + 2 > 0xFFF → exec (.ldBVx x) s = .next { s with
      run := .faulted (.outOfBoundsAccess (.addr (max s.i.toNat 0x1000)) s.pc (some s.opcode)) })

/-- LD [I], Vx (R250): V[0]..V[X] at I..I+X and no other byte, or OutOfBoundsAccess and no byte (the spec's decisions
D6, D13). -/
def Obligations.RegistersAreStoredAtI : Prop :=
  ∀ (x : RegIdx) (s : State), s.mem.wf = true →
    (s.i.toNat + x.val ≤ 0xFFF → ∃ t, exec (.ldMemVx x) s = .next t ∧
      (∀ k : RegIdx, k.val ≤ x.val → t.mem.read (s.i.toNat + k.val) = s.v.get k) ∧
      (∀ a, a < s.i.toNat ∨ s.i.toNat + x.val < a → t.mem.read a = s.mem.read a) ∧
      t = { s with mem := t.mem, pc := s.pc + 2 }) ∧
    (s.i.toNat + x.val > 0xFFF → exec (.ldMemVx x) s = .next { s with
      run := .faulted (.outOfBoundsAccess (.addr (max s.i.toNat 0x1000)) s.pc (some s.opcode)) })

/-- LD Vx, [I] (R253): V[0]..V[X] from I..I+X, the registers above X unchanged, memory unchanged, or OutOfBoundsAccess
and no register (the spec's decisions D6, D13). -/
def Obligations.RegistersAreLoadedFromI : Prop :=
  ∀ (x : RegIdx) (s : State),
    (s.i.toNat + x.val ≤ 0xFFF → ∃ t, exec (.ldVxMem x) s = .next t ∧
      (∀ k : RegIdx, k.val ≤ x.val → t.v.get k = s.mem.read (s.i.toNat + k.val)) ∧
      (∀ k : RegIdx, x.val < k.val → t.v.get k = s.v.get k) ∧
      t = { s with v := t.v, pc := s.pc + 2 }) ∧
    (s.i.toNat + x.val > 0xFFF → exec (.ldVxMem x) s = .next { s with
      run := .faulted (.outOfBoundsAccess (.addr (max s.i.toNat 0x1000)) s.pc (some s.opcode)) })

/-- "FX55 followed by FX65 over the same index and same X round-trips v0..vX exactly, for every X in 0..15" (R256):
whatever happens to the registers in between, while I and memory stay. -/
def Obligations.StoreThenLoadRoundTrips : Prop :=
  ∀ (x : RegIdx) (s t u : State), s.mem.wf = true → s.i.toNat + x.val ≤ 0xFFF → exec (.ldMemVx x) s = .next t →
    u.mem = t.mem → u.i = s.i → ∃ w, exec (.ldVxMem x) u = .next w ∧
      (∀ k : RegIdx, k.val ≤ x.val → w.v.get k = s.v.get k) ∧ (∀ k : RegIdx, x.val < k.val → w.v.get k = u.v.get k)

/-- A store is seen by the next fetch of the bytes (R87, R89; the spec's decision D30): after FX55, the word at two
stored bytes is fetched big-endian from the two registers stored there. -/
def Obligations.StoredBytesAreFetched : Prop :=
  ∀ (x k : RegIdx) (s t : State), s.mem.wf = true → s.i.toNat + x.val ≤ 0xFFF → exec (.ldMemVx x) s = .next t →
    (h : k.val < x.val) →
      fetchAt t.mem (s.i.toNat + k.val) = some (s.v.get k ++ s.v.get ⟨k.val + 1, Nat.lt_of_le_of_lt h x.isLt⟩)

/-- Memory (R76, R77, R83): after a write, the address written reads as the byte written and every other address as
before. The canonical form of the list is the model's (log entry 6). -/
def Obligations.ReadReturnsTheLastWrite : Prop :=
  ∀ (m : Memory) (a c : Nat) (b : Byte), m.wf = true →
    (m.write a b).read c = (if c = a then b else m.read c) ∧ (a < 4096 → (m.write a b).wf = true)

/-- The fetch (R78): big-endian at 0..4094, and OutOfBoundsAccess with no opcode recorded above 4094. -/
def Obligations.FetchIsBigEndianAndBounded : Prop :=
  (∀ (m : Memory) (a : Nat), a ≤ 4094 →
    ∃ w, fetchAt m a = some w ∧ w.toNat = 256 * (m.read a).toNat + (m.read (a + 1)).toNat) ∧
  (∀ (m : Memory) (a : Nat), a > 4094 → fetchAt m a = none) ∧
  (∀ (s : State) (r : Byte), s.run = .running → s.pc.toNat > 4094 → ∃ t, stepRand r s = .next t ∧
    t.run = .faulted (.outOfBoundsAccess (.addr s.pc.toNat) s.pc none))

/-! ## Display (44_display.md) -/

/-- CLS (R270): its word, every cell 0, REDRAW 1, and the rest of the state. -/
def Obligations.ClearZeroesEveryCell : Prop :=
  encode .cls = 0x00E0 ∧
  ∀ s : State, ∃ t, exec .cls s = .next t ∧ (∀ x y, (t.disp.get x).get y = false) ∧
    t = { s with disp := t.disp, redraw := true, pc := s.pc + 2 }

/-- DRW (R276 to R280): each cell that a set sprite bit lands on (row r, column c, bit 7 - c, at
`((V[X] + c) mod 64, (V[Y] + r) mod 32)`) is inverted and every other kept; vF is 1 exactly when some cell went from 1 to
0; REDRAW is 1; nothing else changes. The bit order is the spec's decision D15, the empty sprite D16, coordinates from
vF's old value D11. -/
def Obligations.DrawXorsTheSpriteCells : Prop :=
  ∀ (x y : RegIdx) (n : Nat) (s : State), n ≤ 15 → (n = 0 ∨ s.i.toNat + n - 1 ≤ 0xFFF) →
    ∃ t, exec (.drwVxVyNibble x y n) s = .next t ∧
      (∀ (cx : Fin 64) (cy : Fin 32),
        (t.disp.get cx).get cy = ((s.disp.get cx).get cy ^^
          decide (∃ r : Fin 15, ∃ c : Fin 8, r.val < n ∧ (s.mem.read (s.i.toNat + r.val)).getLsbD (7 - c.val) = true ∧
            cx.val = ((s.v.get x).toNat + c.val) % 64 ∧ cy.val = ((s.v.get y).toNat + r.val) % 32))) ∧
      t.v.get 15 = (if ∃ (cx : Fin 64) (cy : Fin 32), (s.disp.get cx).get cy = true ∧ (t.disp.get cx).get cy = false
        then 1 else 0) ∧
      (∀ r, r ≠ 15 → t.v.get r = s.v.get r) ∧
      t = { s with disp := t.disp, v := t.v, redraw := true, pc := s.pc + 2 }

/-- DRW of rows past 0xFFF (R276, R82, R283): OutOfBoundsAccess with the lowest bad address, and nothing is drawn (the
spec's decision D6); a height of 0 never faults (D16). -/
def Obligations.DrawOutsideMemoryFaults : Prop :=
  ∀ (x y : RegIdx) (n : Nat) (s : State),
    (0 < n → s.i.toNat + n - 1 > 0xFFF → exec (.drwVxVyNibble x y n) s = .next { s with
      run := .faulted (.outOfBoundsAccess (.addr (max s.i.toNat 0x1000)) s.pc (some s.opcode)) }) ∧
    (∃ t, exec (.drwVxVyNibble x y 0) s = .next t ∧ t.disp = s.disp ∧ t.v.get 15 = 0 ∧ t.redraw = true ∧ t.run = s.run)

/-- XOR idempotence (R282, W3): on a clear display the first draw collides with nothing; drawing the same sprite at the
same coordinates again restores the display, and collides exactly if the first draw changed a cell. -/
def Obligations.DrawingTwiceRestoresTheDisplay : Prop :=
  ∀ (x y : RegIdx) (n : Nat) (s t : State), n ≤ 15 → (n = 0 ∨ s.i.toNat + n - 1 ≤ 0xFFF) →
    exec (.drwVxVyNibble x y n) s = .next t → t.v.get x = s.v.get x → t.v.get y = s.v.get y →
    (∃ u, exec (.drwVxVyNibble x y n) t = .next u ∧ u.disp = s.disp ∧
      ((∀ cx cy, (s.disp.get cx).get cy = false) → u.v.get 15 = if t.disp = s.disp then 0 else 1)) ∧
    ((∀ cx cy, (s.disp.get cx).get cy = false) → t.v.get 15 = 0)

/-! ## Key input and timers (45_input_timers.md) -/

/-- SKP and SKNP (R300, R302): the skip on the state of the key V[X], or OutOfBoundsAccess with that key above 15 (the
spec's decision D18). -/
def Obligations.KeySkipsReadTheKeyVxNames : Prop :=
  ∀ (x : RegIdx) (s : State),
    (∀ k : Fin 16, (s.v.get x).toNat = k.val →
      exec (.skpVx x) s = .next { s with pc := if s.key.get k = true then s.pc + 4 else s.pc + 2 } ∧
      exec (.sknpVx x) s = .next { s with pc := if s.key.get k = false then s.pc + 4 else s.pc + 2 }) ∧
    ((s.v.get x).toNat > 15 →
      exec (.skpVx x) s = .next { s with
        run := .faulted (.outOfBoundsAccess (.key (s.v.get x)) s.pc (some s.opcode)) } ∧
      exec (.sknpVx x) s = .next { s with
        run := .faulted (.outOfBoundsAccess (.key (s.v.get x)) s.pc (some s.opcode)) })

/-- LD Vx, DT; LD DT, Vx; LD ST, Vx (R304, R306, R308): their encodings, and the whole next states. -/
def Obligations.TimerRegistersMove : Prop :=
  ∀ (x : RegIdx) (s : State),
    encode (.ldVxDt x) = 0xF007 ||| (BitVec.ofNat 16 x.val <<< 8) ∧
    encode (.ldDtVx x) = 0xF015 ||| (BitVec.ofNat 16 x.val <<< 8) ∧
    encode (.ldStVx x) = 0xF018 ||| (BitVec.ofNat 16 x.val <<< 8) ∧
    exec (.ldVxDt x) s = .next { s with v := s.v.set x.val s.dt x.isLt, pc := s.pc + 2 } ∧
    exec (.ldDtVx x) s = .next { s with dt := s.v.get x, pc := s.pc + 2 } ∧
    exec (.ldStVx x) s = .next { s with st := s.v.get x, pc := s.pc + 2 }

/-- LD Vx, K (R310): RUN becomes Waiting(X) and nothing else changes, whatever keys are held; the Step reports Waiting
(the spec's decisions D19 to D21). -/
def Obligations.WaitForKeySuspends : Prop :=
  ∀ (x : RegIdx) (s t : State),
    exec (.ldVxK x) s = .next { s with run := .waiting x } ∧
    (exec (.ldVxK x) s = .next t → stepResult s t = .waiting)

/-- KeyUpdate (R325, R311): a single key above 15 is refused and nothing changes; else KEY is the new one, and a core
that waits for V[x] takes one of the press events if there is any (the spec's decisions D19, D20, D36). -/
def Obligations.KeyUpdateCompletesAWait : Prop :=
  (∀ (k : Nat) (p : Bool) (pick : Nat) (s : State), k > 15 →
    transact (.keyUpdate (.single k p) pick) s = .next (s, .refused (.noSuchKey k))) ∧
  (∀ (u : KeyChange) (new : Vector Bool 16) (pick : Nat) (s : State), u.apply s.key = .ok new →
    (∀ x, s.run = .waiting x → (∃ j, s.key.get j = false ∧ new.get j = true) →
      ∃ (t : State) (j : RegIdx), transact (.keyUpdate u pick) s = .next (t, .ok) ∧
        s.key.get j = false ∧ new.get j = true ∧
        t = { s with key := new, v := s.v.set x.val (BitVec.ofNat 8 j.val) x.isLt, pc := s.pc + 2, run := .running }) ∧
    ((∀ x, s.run ≠ .waiting x) ∨ (∀ j, s.key.get j = false → new.get j = false) →
      transact (.keyUpdate u pick) s = .next ({ s with key := new }, .ok))) ∧
  (∀ (k : Fin 16) (p : Bool) (old : Vector Bool 16),
    KeyChange.apply (.single k.val p) old = .ok (old.set k.val p k.isLt)) ∧
  (∀ new old : Vector Bool 16, KeyChange.apply (.bulk new) old = .ok new)

/-- Which key completes a wait is a draw (R311, U7): every press event is taken for some value of it (log entry 4). -/
def Obligations.EveryPressMayCompleteAWait : Prop :=
  ∀ (x j : RegIdx) (new : Vector Bool 16) (s : State), s.run = .waiting x → s.key.get j = false → new.get j = true →
    ∃ (pick : Nat) (t : State), keyUpdate (.bulk new) pick s = .next t ∧ t.run = .running ∧ (t.v.get x).toNat = j.val

/-- Ticks (R320 to R322): "decremented by exactly 1 per fixed timer tick ..., saturating at 0", in every run state, after
any number of them, with nothing else changed; ST = k yields k ticks with tone 1 (read before the decrement, the spec's
decisions D22, D23). -/
def Obligations.TicksCountDownAndSaturate : Prop :=
  ∀ (n : Nat) (s : State),
    (Nat.iterate tick n s).dt.toNat = s.dt.toNat - n ∧ (Nat.iterate tick n s).st.toNat = s.st.toNat - n ∧
    Nat.iterate tick n s = { s with dt := (Nat.iterate tick n s).dt, st := (Nat.iterate tick n s).st } ∧
    transact .tick s = .next (tick s, .tone (tickTone s)) ∧
    (tickTone (Nat.iterate tick n s) = true ↔ n < s.st.toNat)

/-! ## The engine (40_engine_cycle.md) -/

/-- A Step runs the decoded instruction (R131 to R133): with the word in OPCODE, PC at the instruction and the `rand`
input taken; `step` is the same with the next draw (log entry 1). -/
def Obligations.StepExecutesTheFetchedInstruction : Prop :=
  ∀ (s : State) (i : Instr) (r : Byte), s.run = .running → s.pc.toNat ≤ 4094 →
    decodeWord (s.mem.read s.pc.toNat ++ s.mem.read (s.pc.toNat + 1)) = .ok i →
    stepRand r s = exec i { s with
      opcode := s.mem.read s.pc.toNat ++ s.mem.read (s.pc.toNat + 1), rand := r, draws := s.draws + 1 } ∧
    step s = exec i { s with
      opcode := s.mem.read s.pc.toNat ++ s.mem.read (s.pc.toNat + 1), rand := Config.randDraw s.draws,
      draws := s.draws + 1 }

/-- An illegal word (R138, R341): DecodeError and nothing but OPCODE and RUN under Fatal; PC + 2, nothing but PC and
OPCODE, and a DecodeSkipped report under Skip (the spec's decision D25). -/
def Obligations.IllegalWordFollowsThePolicy : Prop :=
  ∀ (s : State) (r : Byte) (w : Word) (e : Reject), s.run = .running → s.pc.toNat ≤ 4094 →
    w = s.mem.read s.pc.toNat ++ s.mem.read (s.pc.toNat + 1) → decodeWord w = .error e →
    (s.decodeErrorPolicy = .fatal → stepRand r s = .next { s with
      opcode := w, run := .faulted (.decodeError w s.pc), rand := r, draws := s.draws + 1 }) ∧
    (s.decodeErrorPolicy = .skip → ∃ t, stepRand r s = .next t ∧ stepResult s t = .decodeSkipped w s.pc ∧
      t = { s with opcode := w, pc := s.pc + 2, rand := r, draws := s.draws + 1 })

/-- A Step of a waiting or faulted core changes nothing and reports the wait or the fault again (R143, R144; the spec's
decisions D21, D7). -/
def Obligations.SuspendedStepsChangeNothing : Prop :=
  ∀ (s : State) (r : Byte),
    (∀ x, s.run = .waiting x → transact (.step r) s = .next (s, .stepped .waiting) ∧ step s = .next s) ∧
    (∀ f, s.run = .faulted f → transact (.step r) s = .next (s, .stepped (.fault f)) ∧ step s = .next s)

/-- The step never blocks the host (R140): every Step of every state answers a next state, and so does every
instruction. That a Step or an instruction which faults answers a next state too, with RUN faulted, is the model's reading
of R346 and of the spec's decision D7 (log entry 7, DEDUCED). -/
def Obligations.EveryStepAnswersAState : Prop :=
  (∀ (s : State) (r : Byte), ∃ t, stepRand r s = .next t) ∧ (∀ (i : Instr) (s : State), ∃ t, exec i s = .next t)

/-- OPCODE (R132): after a Step whose fetch succeeds it is the fetched word, also when the Step faults; a fetch that
fails leaves it and everything but RUN (the spec's decisions D28, D6; the fields `rand` and `draws` are the model's own,
log entry 1). -/
def Obligations.OpcodeLatchesTheFetchedWord : Prop :=
  ∀ (s t : State) (r : Byte), s.run = .running → stepRand r s = .next t →
    (s.pc.toNat ≤ 4094 → t.opcode = s.mem.read s.pc.toNat ++ s.mem.read (s.pc.toNat + 1)) ∧
    (s.pc.toNat > 4094 → t = { s with
      run := .faulted (.outOfBoundsAccess (.addr s.pc.toNat) s.pc none), rand := r, draws := s.draws + 1 })

/-- What a Step of a running core reports (R139): a fault if RUN is Faulted after it, Waiting if RUN is Waiting,
Executed if it ran an instruction to the end. -/
def Obligations.StepReportsWhatHappened : Prop :=
  ∀ (s t : State) (r : Byte) (i : Instr), s.run = .running → s.pc.toNat ≤ 4094 →
    decodeWord (s.mem.read s.pc.toNat ++ s.mem.read (s.pc.toNat + 1)) = .ok i → stepRand r s = .next t →
    (t.run = .running → stepResult s t = .executed) ∧
    (∀ x, t.run = .waiting x → stepResult s t = .waiting ∧ i = .ldVxK x) ∧
    (∀ f, t.run = .faulted f → stepResult s t = .fault f)

/-- The `rand` input is used by CXNN alone (R142): on two states that differ only in it, every other instruction gives
next states that differ only in it. -/
def Obligations.OnlyCxnnReadsRand : Prop :=
  ∀ (i : Instr) (s t : State) (r : Byte), (∀ x nn, i ≠ .rndVxByte x nn) → exec i s = .next t →
    exec i { s with rand := r } = .next { t with rand := r }

/-! ## Faults (60_exceptions.md) -/

/-- Faults are precise (R345, R346): an instruction that takes a fault changes RUN alone (the spec's decision D6). -/
def Obligations.FaultChangesNothingButRun : Prop :=
  ∀ (i : Instr) (s t : State) (f : Fault), s.run = .running → exec i s = .next t → t.run = .faulted f →
    t = { s with run := .faulted f }

/-- Which instruction raises which fault (R340, R348), with its recorded values; every other instruction raises none
(the key index is the spec's decision D18). -/
def Obligations.EachFaultHasItsCause : Prop :=
  ∀ (i : Instr) (s t : State) (f : Fault), s.run = .running → exec i s = .next t → t.run = .faulted f →
    (i = .ret ∧ s.stack = [] ∧ f = .stackUnderflow 0x00EE s.pc) ∨
    (∃ nnn, i = .callAddr nnn ∧ s.stack.length ≥ 16 ∧ f = .stackOverflow s.opcode s.pc) ∨
    (∃ a, a > 0xFFF ∧ f = .outOfBoundsAccess (.addr a) s.pc (some s.opcode) ∧
      ((∃ x, i = .ldBVx x ∧ s.i.toNat + 2 ≥ a) ∨ (∃ x : RegIdx, (i = .ldMemVx x ∨ i = .ldVxMem x) ∧ s.i.toNat + x.val ≥ a) ∨
        (∃ x y n, i = .drwVxVyNibble x y n ∧ s.i.toNat + n > a))) ∨
    (∃ x, (i = .skpVx x ∨ i = .sknpVx x) ∧ (s.v.get x).toNat > 15 ∧
      f = .outOfBoundsAccess (.key (s.v.get x)) s.pc (some s.opcode))

/-- Faulted is sticky (R347, R349): every transaction but Load keeps the fault; Load of a ROM that fits leads back to
Running (the spec's decisions D7, D22, D34). -/
def Obligations.OnlyLoadLeavesFaulted : Prop :=
  ∀ (s s' : State) (f : Fault) (x : Transaction) (r : Reply), s.run = .faulted f → transact x s = .next (s', r) →
    (∃ font rom, x = .load font rom ∧ s'.run = .running) ∨ ((∀ font rom, x ≠ .load font rom) ∧ s'.run = .faulted f)

/-! ## What each instruction leaves alone (10_state.md) -/

/-- Memory is written only by FX33 and FX55 (R72, R49): after any other instruction every byte reads as before. -/
def Obligations.OnlyStoresWriteMemory : Prop :=
  ∀ (i : Instr) (s t : State), (∀ x, i ≠ .ldBVx x ∧ i ≠ .ldMemVx x) → exec i s = .next t →
    ∀ a, t.mem.read a = s.mem.read a

/-- A general register is written only as an instruction's destination, or as vF by the flag instructions (R34, R46,
R49). -/
def Obligations.RegistersChangeOnlyAsDestinations : Prop :=
  ∀ (i : Instr) (s t : State) (r : RegIdx), exec i s = .next t → t.v.get r ≠ s.v.get r →
    match i with
    | .ldVxByte x _ | .addVxByte x _ | .ldVxVy x _ | .orVxVy x _ | .andVxVy x _ | .xorVxVy x _ | .rndVxByte x _
    | .ldVxDt x => r = x
    | .addVxVy x _ | .subVxVy x _ | .shrVxVy x _ | .subnVxVy x _ | .shlVxVy x _ => r = x ∨ r = 15
    | .drwVxVyNibble _ _ _ => r = 15
    | .ldVxMem x => r.val ≤ x.val
    | _ => False

/-- I, S, DISP, REDRAW, DT and ST have the writers of R37, R40, R41, R42 and R38, REDRAW is never cleared by an
instruction, and KEY, OPCODE and the configuration are written by none (R44, R39, log entry 2). -/
def Obligations.EachFieldHasItsWriters : Prop :=
  ∀ (i : Instr) (s t : State), exec i s = .next t →
    ((∀ nnn x, i ≠ .ldIAddr nnn ∧ i ≠ .addIVx x ∧ i ≠ .ldFVx x) → t.i = s.i) ∧
    ((∀ nnn, i ≠ .callAddr nnn ∧ i ≠ .ret) → t.stack = s.stack) ∧
    ((∀ x y n, i ≠ .cls ∧ i ≠ .drwVxVyNibble x y n) → t.disp = s.disp ∧ t.redraw = s.redraw) ∧
    (s.redraw = true → t.redraw = true) ∧
    ((∀ x, i ≠ .ldDtVx x) → t.dt = s.dt) ∧ ((∀ x, i ≠ .ldStVx x) → t.st = s.st) ∧
    t.key = s.key ∧ t.opcode = s.opcode ∧ t.decodeErrorPolicy = s.decodeErrorPolicy ∧
    t.rand = s.rand ∧ t.draws = s.draws

/-- REDRAW and ST are hidden from the program (R38, R48): changing them changes nothing else in what any instruction
does. -/
def Obligations.NoInstructionReadsRedrawOrSt : Prop :=
  ∀ (i : Instr) (s t : State) (q : Bool) (b : Byte), exec i s = .next t →
    ∃ u, exec i { s with redraw := q, st := b } = .next u ∧ u = { t with redraw := u.redraw, st := u.st }

/-! ## Reset and the display interface (70_reset_and_hazards.md, 44_display.md) -/

/-- Load (R380, R50, R73): FONT at 0..79, the ROM from 0x200, 0 elsewhere, PC 0x200, everything else cleared, whatever
the state was. The values but for FONT and ROM are the spec's decisions D2, D3, D4; that the policy and the `rand` fields
stay is the model's choice (log entries 1, 2). -/
def Obligations.LoadBuildsTheResetState : Prop :=
  ∀ (font : Vector Byte 80) (rom : List Byte) (s : State), 0x200 + rom.length ≤ 4096 →
    ∃ t, load font rom s = .next t ∧ t.mem.wf = true ∧
      (∀ a : Fin 80, t.mem.read a.val = font.get a) ∧
      (∀ j : Fin rom.length, t.mem.read (0x200 + j.val) = rom.get j) ∧
      (∀ a, 80 ≤ a → a < 0x200 ∨ 0x200 + rom.length ≤ a → t.mem.read a = 0) ∧
      (∀ r, t.v.get r = 0) ∧ t.i = 0 ∧ t.pc = 0x200 ∧ t.stack = [] ∧ (∀ x y, (t.disp.get x).get y = false) ∧
      t.redraw = false ∧ (∀ k, t.key.get k = false) ∧ t.dt = 0 ∧ t.st = 0 ∧ t.opcode = 0 ∧ t.run = .running ∧
      t.decodeErrorPolicy = s.decodeErrorPolicy ∧ t.rand = s.rand ∧ t.draws = s.draws

/-- The limits of Load: a ROM of 3585 bytes or more is a LoadError, after which there is no VM state (R382, R383; the
spec's decision D34), and the empty ROM with the default FONT gives the reset state of the interface (R50, D5). Where no
VM state exists every transaction but Load is refused and changes nothing, and a Load that fits builds the state again
(that the host is answered a refusal is the model's form, log entry 14). -/
def Obligations.LoadAtItsLimits : Prop :=
  (∀ (font : Vector Byte 80) (rom : List Byte) (s : State), rom.length ≥ 3585 →
    transact (.load font rom) s = .fault (.loadError rom.length)) ∧
  (∀ font : Vector Byte 80, font.toList = defaultFont → load font [] State.reset = .next State.reset) ∧
  (∀ (font : Vector Byte 80) (rom : List Byte) (v : Vm), rom.length ≥ 3585 →
    ∃ c, transactVm (.load font rom) v = (.absent c, .failed (.loadError rom.length))) ∧
  (∀ (c : Carried) (t : Transaction), (∀ font rom, t ≠ .load font rom) →
    transactVm t (.absent c) = (.absent c, .refused .noVmState)) ∧
  (∀ (c : Carried) (font : Vector Byte 80) (rom : List Byte), 0x200 + rom.length ≤ 4096 →
    ∃ s, load font rom c.fresh = .next s ∧ transactVm (.load font rom) (.absent c) = (.present s, .ok))

/-- DisplayRead returns the cells and REDRAW and changes nothing (R285); DisplayAck clears REDRAW and nothing else
(R286; the spec's decision D35). -/
def Obligations.DisplayIsReadAndAcknowledged : Prop :=
  ∀ s : State, transact .displayRead s = .next (s, .display s.disp s.redraw) ∧
    transact .displayAck s = .next ({ s with redraw := false }, .ok)

/-! ## The invariant of every run -/

/-- The invariant holds after reset. -/
def Obligations.ResetMeetsTheInvariant : Prop := StateInv State.reset

/-- Every Step keeps the invariant: memory's canonical form (log entry 6), at most 16 return addresses (R40), a wait
that stands at its FX0A (R310), a fault record that names the faulting instruction (R345, R346). -/
def Obligations.StepKeepsTheInvariant : Prop :=
  ∀ s s' : State, StateInv s → step s = .next s' → StateInv s'

/-- Every transaction of the host keeps the invariant, so it holds of every state a run from reset, or from
the first Load, reaches, failed Loads among its transactions. -/
def Obligations.EveryReachableStateMeetsTheInvariant : Prop :=
  (∀ (s s' : State) (x : Transaction) (r : Reply), StateInv s → transact x s = .next (s', r) → StateInv s') ∧
  (∀ s : State, Reachable s → StateInv s)
end

