-- ==== Sys2Proof/Laws/Memory.lean ====
section
/-! SUPPORT. What reading a byte gives after a write, and that every write keeps the canonical form. -/

namespace Sys2Proof.Machine.Memory

theorem wfFrom_mono {lo lo' : Nat} (h : lo' ≤ lo) {m : Memory} (hm : wfFrom lo m = true) :
    wfFrom lo' m = true := by
  cases m with
  | nil => rfl
  | cons c m =>
    obtain ⟨a, b⟩ := c
    simp only [wfFrom, Bool.and_eq_true, decide_eq_true_eq] at hm ⊢
    exact ⟨⟨⟨by omega, hm.1.1.2⟩, hm.1.2⟩, hm.2⟩

/-- An address below every cell reads as after reset. -/
theorem read_below {lo a : Nat} {m : Memory} (hm : wfFrom lo m = true) (h : a < lo) : read m a = resetByte a := by
  induction m generalizing lo with
  | nil => rfl
  | cons c m ih =>
    obtain ⟨a', b⟩ := c
    simp only [wfFrom, Bool.and_eq_true, decide_eq_true_eq] at hm
    have : a ≠ a' := by omega
    simp only [read, this, if_false]
    exact ih hm.2 (by omega)

theorem read_place_self (a : Nat) (b : Byte) {m : Memory} (hm : wfFrom (a + 1) m = true) :
    read (place a b m) a = b := by
  unfold place
  split
  · next h => rw [read_below hm (by omega), h]
  · simp [read]

theorem read_place_other {a a' : Nat} (b : Byte) (m : Memory) (h : a' ≠ a) : read (place a b m) a' = read m a' := by
  unfold place
  split
  · rfl
  · simp [read, h]

/-- A read of the address written gives the byte written (R83). -/
theorem read_write_self_from {lo : Nat} {m : Memory} (hm : wfFrom lo m = true) (a : Nat) (b : Byte) :
    read (write m a b) a = b := by
  induction m generalizing lo with
  | nil => exact read_place_self a b rfl
  | cons c m ih =>
    obtain ⟨a', x⟩ := c
    have hc := hm
    simp only [wfFrom, Bool.and_eq_true, decide_eq_true_eq] at hc
    unfold write
    split
    · next h =>
      refine read_place_self a b ?_
      simp only [wfFrom, Bool.and_eq_true, decide_eq_true_eq]
      exact ⟨⟨⟨by omega, hc.1.1.2⟩, hc.1.2⟩, hc.2⟩
    · split
      · next h => subst h; exact read_place_self a b hc.2
      · next h => simp only [read, h, if_false]; exact ih hc.2

theorem read_write_self {m : Memory} (hm : m.wf = true) (a : Nat) (b : Byte) : read (write m a b) a = b :=
  read_write_self_from hm a b

/-- A write leaves every other address as it was. -/
theorem read_write_other (m : Memory) {a a' : Nat} (b : Byte) (h : a' ≠ a) : read (write m a b) a' = read m a' := by
  induction m with
  | nil => exact read_place_other b [] h
  | cons c m ih =>
    obtain ⟨c, x⟩ := c
    unfold write
    split
    · exact read_place_other b _ h
    · split
      · next hc => subst hc; rw [read_place_other b _ h]; simp [read, h]
      · simp only [read, ih]

theorem wfFrom_place {lo a : Nat} (b : Byte) {m : Memory} (hlo : lo ≤ a) (ha : a < 4096)
    (hm : wfFrom (a + 1) m = true) : wfFrom lo (place a b m) = true := by
  unfold place
  split
  · exact wfFrom_mono (by omega) hm
  · next h => simp [wfFrom, hlo, ha, h, hm, Config.memSize]

theorem wfFrom_write {lo a : Nat} (b : Byte) {m : Memory} (hlo : lo ≤ a) (ha : a < 4096) (hm : wfFrom lo m = true) :
    wfFrom lo (write m a b) = true := by
  induction m generalizing lo with
  | nil => exact wfFrom_place b hlo ha rfl
  | cons c m ih =>
    obtain ⟨c, x⟩ := c
    have hc := hm
    simp only [wfFrom, Bool.and_eq_true, decide_eq_true_eq] at hc
    unfold write
    split
    · next h =>
      refine wfFrom_place b hlo ha ?_
      simp only [wfFrom, Bool.and_eq_true, decide_eq_true_eq]
      exact ⟨⟨⟨by omega, hc.1.1.2⟩, hc.1.2⟩, hc.2⟩
    · split
      · next h => subst h; exact wfFrom_place b hlo ha hc.2
      · next h1 h2 =>
        simp only [wfFrom, Bool.and_eq_true, decide_eq_true_eq]
        exact ⟨⟨⟨by omega, hc.1.1.2⟩, hc.1.2⟩, ih (by omega) hc.2⟩

/-- A write inside memory keeps the canonical form. -/
theorem wf_write {a : Nat} (b : Byte) {m : Memory} (ha : a < 4096) (hm : m.wf = true) : (write m a b).wf = true :=
  wfFrom_write b (Nat.zero_le a) ha hm

/-- Writes inside memory keep the canonical form. -/
theorem wf_writeBytes {a : Nat} {bs : List Byte} {m : Memory} (ha : a + bs.length ≤ 4096) (hm : m.wf = true) :
    (writeBytes m a bs).wf = true := by
  induction bs generalizing a m with
  | nil => exact hm
  | cons b bs ih =>
    simp only [List.length_cons] at ha
    exact ih (by omega) (wf_write b (by omega) hm)

/-- Writes leave every address outside them as it was. -/
theorem read_writeBytes_outside (m : Memory) {a c : Nat} {bs : List Byte} (h : c < a ∨ a + bs.length ≤ c) :
    read (writeBytes m a bs) c = read m c := by
  induction bs generalizing a m with
  | nil => rfl
  | cons b bs ih =>
    simp only [List.length_cons] at h
    rw [writeBytes, ih (m := write m a b) (a := a + 1) (by omega), read_write_other m b (by omega)]

/-- A read of an address written gives the byte written there. -/
theorem read_writeBytes_inside {m : Memory} (hm : m.wf = true) {a : Nat} {bs : List Byte}
    (ha : a + bs.length ≤ 4096) {k : Nat} (hk : k < bs.length) : read (writeBytes m a bs) (a + k) = bs[k] := by
  induction bs generalizing a m k with
  | nil => exact absurd hk (Nat.not_lt_zero k)
  | cons b bs ih =>
    simp only [List.length_cons] at ha hk
    cases k with
    | zero =>
      rw [writeBytes, read_writeBytes_outside _ (by omega)]
      exact read_write_self hm a b
    | succ k =>
      have := ih (m := write m a b) (a := a + 1) (wf_write b (by omega) hm) (by omega) (k := k) (by omega)
      rw [show a + (k + 1) = a + 1 + k by omega, writeBytes, this]
      rfl

@[simp] theorem length_readBytes (m : Memory) (a n : Nat) : (readBytes m a n).length = n := by simp [readBytes]

@[simp] theorem getElem_readBytes (m : Memory) (a n k : Nat) (h : k < (readBytes m a n).length) :
    (readBytes m a n)[k] = read m (a + k) := by simp [readBytes]

end Sys2Proof.Machine.Memory
end

