-- ==== Sys2Proof/Laws/State.lean ====
section
/-! SUPPORT. One lemma for each field under each update of the state, so that no proof unfolds an update. -/

namespace Sys2Proof.Machine.State

@[simp] theorem setV_v (s : State) (x : RegIdx) (b : Byte) : (s.setV x b).v = s.v.set x.val b x.isLt := rfl
@[simp] theorem setV_i (s : State) (x : RegIdx) (b : Byte) : (s.setV x b).i = s.i := rfl
@[simp] theorem setV_pc (s : State) (x : RegIdx) (b : Byte) : (s.setV x b).pc = s.pc := rfl
@[simp] theorem setV_stack (s : State) (x : RegIdx) (b : Byte) : (s.setV x b).stack = s.stack := rfl
@[simp] theorem setV_mem (s : State) (x : RegIdx) (b : Byte) : (s.setV x b).mem = s.mem := rfl
@[simp] theorem setV_disp (s : State) (x : RegIdx) (b : Byte) : (s.setV x b).disp = s.disp := rfl
@[simp] theorem setV_redraw (s : State) (x : RegIdx) (b : Byte) : (s.setV x b).redraw = s.redraw := rfl
@[simp] theorem setV_key (s : State) (x : RegIdx) (b : Byte) : (s.setV x b).key = s.key := rfl
@[simp] theorem setV_dt (s : State) (x : RegIdx) (b : Byte) : (s.setV x b).dt = s.dt := rfl
@[simp] theorem setV_st (s : State) (x : RegIdx) (b : Byte) : (s.setV x b).st = s.st := rfl
@[simp] theorem setV_opcode (s : State) (x : RegIdx) (b : Byte) : (s.setV x b).opcode = s.opcode := rfl
@[simp] theorem setV_run (s : State) (x : RegIdx) (b : Byte) : (s.setV x b).run = s.run := rfl
@[simp] theorem setV_decodeErrorPolicy (s : State) (x : RegIdx) (b : Byte) : (s.setV x b).decodeErrorPolicy = s.decodeErrorPolicy := rfl
@[simp] theorem setV_rand (s : State) (x : RegIdx) (b : Byte) : (s.setV x b).rand = s.rand := rfl
@[simp] theorem setV_draws (s : State) (x : RegIdx) (b : Byte) : (s.setV x b).draws = s.draws := rfl

@[simp] theorem setVs_v (s : State) (w : Vector Byte 16) : (s.setVs w).v = w := rfl
@[simp] theorem setVs_i (s : State) (w : Vector Byte 16) : (s.setVs w).i = s.i := rfl
@[simp] theorem setVs_pc (s : State) (w : Vector Byte 16) : (s.setVs w).pc = s.pc := rfl
@[simp] theorem setVs_stack (s : State) (w : Vector Byte 16) : (s.setVs w).stack = s.stack := rfl
@[simp] theorem setVs_mem (s : State) (w : Vector Byte 16) : (s.setVs w).mem = s.mem := rfl
@[simp] theorem setVs_disp (s : State) (w : Vector Byte 16) : (s.setVs w).disp = s.disp := rfl
@[simp] theorem setVs_redraw (s : State) (w : Vector Byte 16) : (s.setVs w).redraw = s.redraw := rfl
@[simp] theorem setVs_key (s : State) (w : Vector Byte 16) : (s.setVs w).key = s.key := rfl
@[simp] theorem setVs_dt (s : State) (w : Vector Byte 16) : (s.setVs w).dt = s.dt := rfl
@[simp] theorem setVs_st (s : State) (w : Vector Byte 16) : (s.setVs w).st = s.st := rfl
@[simp] theorem setVs_opcode (s : State) (w : Vector Byte 16) : (s.setVs w).opcode = s.opcode := rfl
@[simp] theorem setVs_run (s : State) (w : Vector Byte 16) : (s.setVs w).run = s.run := rfl
@[simp] theorem setVs_decodeErrorPolicy (s : State) (w : Vector Byte 16) : (s.setVs w).decodeErrorPolicy = s.decodeErrorPolicy := rfl
@[simp] theorem setVs_rand (s : State) (w : Vector Byte 16) : (s.setVs w).rand = s.rand := rfl
@[simp] theorem setVs_draws (s : State) (w : Vector Byte 16) : (s.setVs w).draws = s.draws := rfl

@[simp] theorem setI_v (s : State) (w : Word) : (s.setI w).v = s.v := rfl
@[simp] theorem setI_i (s : State) (w : Word) : (s.setI w).i = w := rfl
@[simp] theorem setI_pc (s : State) (w : Word) : (s.setI w).pc = s.pc := rfl
@[simp] theorem setI_stack (s : State) (w : Word) : (s.setI w).stack = s.stack := rfl
@[simp] theorem setI_mem (s : State) (w : Word) : (s.setI w).mem = s.mem := rfl
@[simp] theorem setI_disp (s : State) (w : Word) : (s.setI w).disp = s.disp := rfl
@[simp] theorem setI_redraw (s : State) (w : Word) : (s.setI w).redraw = s.redraw := rfl
@[simp] theorem setI_key (s : State) (w : Word) : (s.setI w).key = s.key := rfl
@[simp] theorem setI_dt (s : State) (w : Word) : (s.setI w).dt = s.dt := rfl
@[simp] theorem setI_st (s : State) (w : Word) : (s.setI w).st = s.st := rfl
@[simp] theorem setI_opcode (s : State) (w : Word) : (s.setI w).opcode = s.opcode := rfl
@[simp] theorem setI_run (s : State) (w : Word) : (s.setI w).run = s.run := rfl
@[simp] theorem setI_decodeErrorPolicy (s : State) (w : Word) : (s.setI w).decodeErrorPolicy = s.decodeErrorPolicy := rfl
@[simp] theorem setI_rand (s : State) (w : Word) : (s.setI w).rand = s.rand := rfl
@[simp] theorem setI_draws (s : State) (w : Word) : (s.setI w).draws = s.draws := rfl

@[simp] theorem setPc_v (s : State) (w : Word) : (s.setPc w).v = s.v := rfl
@[simp] theorem setPc_i (s : State) (w : Word) : (s.setPc w).i = s.i := rfl
@[simp] theorem setPc_pc (s : State) (w : Word) : (s.setPc w).pc = w := rfl
@[simp] theorem setPc_stack (s : State) (w : Word) : (s.setPc w).stack = s.stack := rfl
@[simp] theorem setPc_mem (s : State) (w : Word) : (s.setPc w).mem = s.mem := rfl
@[simp] theorem setPc_disp (s : State) (w : Word) : (s.setPc w).disp = s.disp := rfl
@[simp] theorem setPc_redraw (s : State) (w : Word) : (s.setPc w).redraw = s.redraw := rfl
@[simp] theorem setPc_key (s : State) (w : Word) : (s.setPc w).key = s.key := rfl
@[simp] theorem setPc_dt (s : State) (w : Word) : (s.setPc w).dt = s.dt := rfl
@[simp] theorem setPc_st (s : State) (w : Word) : (s.setPc w).st = s.st := rfl
@[simp] theorem setPc_opcode (s : State) (w : Word) : (s.setPc w).opcode = s.opcode := rfl
@[simp] theorem setPc_run (s : State) (w : Word) : (s.setPc w).run = s.run := rfl
@[simp] theorem setPc_decodeErrorPolicy (s : State) (w : Word) : (s.setPc w).decodeErrorPolicy = s.decodeErrorPolicy := rfl
@[simp] theorem setPc_rand (s : State) (w : Word) : (s.setPc w).rand = s.rand := rfl
@[simp] theorem setPc_draws (s : State) (w : Word) : (s.setPc w).draws = s.draws := rfl

@[simp] theorem advance_v (s : State) : (s.advance).v = s.v := rfl
@[simp] theorem advance_i (s : State) : (s.advance).i = s.i := rfl
@[simp] theorem advance_pc (s : State) : (s.advance).pc = s.pc + 2 := rfl
@[simp] theorem advance_stack (s : State) : (s.advance).stack = s.stack := rfl
@[simp] theorem advance_mem (s : State) : (s.advance).mem = s.mem := rfl
@[simp] theorem advance_disp (s : State) : (s.advance).disp = s.disp := rfl
@[simp] theorem advance_redraw (s : State) : (s.advance).redraw = s.redraw := rfl
@[simp] theorem advance_key (s : State) : (s.advance).key = s.key := rfl
@[simp] theorem advance_dt (s : State) : (s.advance).dt = s.dt := rfl
@[simp] theorem advance_st (s : State) : (s.advance).st = s.st := rfl
@[simp] theorem advance_opcode (s : State) : (s.advance).opcode = s.opcode := rfl
@[simp] theorem advance_run (s : State) : (s.advance).run = s.run := rfl
@[simp] theorem advance_decodeErrorPolicy (s : State) : (s.advance).decodeErrorPolicy = s.decodeErrorPolicy := rfl
@[simp] theorem advance_rand (s : State) : (s.advance).rand = s.rand := rfl
@[simp] theorem advance_draws (s : State) : (s.advance).draws = s.draws := rfl

@[simp] theorem skipIf_v (s : State) (c : Bool) : (s.skipIf c).v = s.v := rfl
@[simp] theorem skipIf_i (s : State) (c : Bool) : (s.skipIf c).i = s.i := rfl
@[simp] theorem skipIf_pc (s : State) (c : Bool) : (s.skipIf c).pc = if c then s.pc + 4 else s.pc + 2 := rfl
@[simp] theorem skipIf_stack (s : State) (c : Bool) : (s.skipIf c).stack = s.stack := rfl
@[simp] theorem skipIf_mem (s : State) (c : Bool) : (s.skipIf c).mem = s.mem := rfl
@[simp] theorem skipIf_disp (s : State) (c : Bool) : (s.skipIf c).disp = s.disp := rfl
@[simp] theorem skipIf_redraw (s : State) (c : Bool) : (s.skipIf c).redraw = s.redraw := rfl
@[simp] theorem skipIf_key (s : State) (c : Bool) : (s.skipIf c).key = s.key := rfl
@[simp] theorem skipIf_dt (s : State) (c : Bool) : (s.skipIf c).dt = s.dt := rfl
@[simp] theorem skipIf_st (s : State) (c : Bool) : (s.skipIf c).st = s.st := rfl
@[simp] theorem skipIf_opcode (s : State) (c : Bool) : (s.skipIf c).opcode = s.opcode := rfl
@[simp] theorem skipIf_run (s : State) (c : Bool) : (s.skipIf c).run = s.run := rfl
@[simp] theorem skipIf_decodeErrorPolicy (s : State) (c : Bool) : (s.skipIf c).decodeErrorPolicy = s.decodeErrorPolicy := rfl
@[simp] theorem skipIf_rand (s : State) (c : Bool) : (s.skipIf c).rand = s.rand := rfl
@[simp] theorem skipIf_draws (s : State) (c : Bool) : (s.skipIf c).draws = s.draws := rfl

@[simp] theorem setStack_v (s : State) (w : List Word) : (s.setStack w).v = s.v := rfl
@[simp] theorem setStack_i (s : State) (w : List Word) : (s.setStack w).i = s.i := rfl
@[simp] theorem setStack_pc (s : State) (w : List Word) : (s.setStack w).pc = s.pc := rfl
@[simp] theorem setStack_stack (s : State) (w : List Word) : (s.setStack w).stack = w := rfl
@[simp] theorem setStack_mem (s : State) (w : List Word) : (s.setStack w).mem = s.mem := rfl
@[simp] theorem setStack_disp (s : State) (w : List Word) : (s.setStack w).disp = s.disp := rfl
@[simp] theorem setStack_redraw (s : State) (w : List Word) : (s.setStack w).redraw = s.redraw := rfl
@[simp] theorem setStack_key (s : State) (w : List Word) : (s.setStack w).key = s.key := rfl
@[simp] theorem setStack_dt (s : State) (w : List Word) : (s.setStack w).dt = s.dt := rfl
@[simp] theorem setStack_st (s : State) (w : List Word) : (s.setStack w).st = s.st := rfl
@[simp] theorem setStack_opcode (s : State) (w : List Word) : (s.setStack w).opcode = s.opcode := rfl
@[simp] theorem setStack_run (s : State) (w : List Word) : (s.setStack w).run = s.run := rfl
@[simp] theorem setStack_decodeErrorPolicy (s : State) (w : List Word) : (s.setStack w).decodeErrorPolicy = s.decodeErrorPolicy := rfl
@[simp] theorem setStack_rand (s : State) (w : List Word) : (s.setStack w).rand = s.rand := rfl
@[simp] theorem setStack_draws (s : State) (w : List Word) : (s.setStack w).draws = s.draws := rfl

@[simp] theorem push_v (s : State) (w : Word) : (s.push w).v = s.v := rfl
@[simp] theorem push_i (s : State) (w : Word) : (s.push w).i = s.i := rfl
@[simp] theorem push_pc (s : State) (w : Word) : (s.push w).pc = s.pc := rfl
@[simp] theorem push_stack (s : State) (w : Word) : (s.push w).stack = w :: s.stack := rfl
@[simp] theorem push_mem (s : State) (w : Word) : (s.push w).mem = s.mem := rfl
@[simp] theorem push_disp (s : State) (w : Word) : (s.push w).disp = s.disp := rfl
@[simp] theorem push_redraw (s : State) (w : Word) : (s.push w).redraw = s.redraw := rfl
@[simp] theorem push_key (s : State) (w : Word) : (s.push w).key = s.key := rfl
@[simp] theorem push_dt (s : State) (w : Word) : (s.push w).dt = s.dt := rfl
@[simp] theorem push_st (s : State) (w : Word) : (s.push w).st = s.st := rfl
@[simp] theorem push_opcode (s : State) (w : Word) : (s.push w).opcode = s.opcode := rfl
@[simp] theorem push_run (s : State) (w : Word) : (s.push w).run = s.run := rfl
@[simp] theorem push_decodeErrorPolicy (s : State) (w : Word) : (s.push w).decodeErrorPolicy = s.decodeErrorPolicy := rfl
@[simp] theorem push_rand (s : State) (w : Word) : (s.push w).rand = s.rand := rfl
@[simp] theorem push_draws (s : State) (w : Word) : (s.push w).draws = s.draws := rfl

@[simp] theorem setMem_v (s : State) (m : Memory) : (s.setMem m).v = s.v := rfl
@[simp] theorem setMem_i (s : State) (m : Memory) : (s.setMem m).i = s.i := rfl
@[simp] theorem setMem_pc (s : State) (m : Memory) : (s.setMem m).pc = s.pc := rfl
@[simp] theorem setMem_stack (s : State) (m : Memory) : (s.setMem m).stack = s.stack := rfl
@[simp] theorem setMem_mem (s : State) (m : Memory) : (s.setMem m).mem = m := rfl
@[simp] theorem setMem_disp (s : State) (m : Memory) : (s.setMem m).disp = s.disp := rfl
@[simp] theorem setMem_redraw (s : State) (m : Memory) : (s.setMem m).redraw = s.redraw := rfl
@[simp] theorem setMem_key (s : State) (m : Memory) : (s.setMem m).key = s.key := rfl
@[simp] theorem setMem_dt (s : State) (m : Memory) : (s.setMem m).dt = s.dt := rfl
@[simp] theorem setMem_st (s : State) (m : Memory) : (s.setMem m).st = s.st := rfl
@[simp] theorem setMem_opcode (s : State) (m : Memory) : (s.setMem m).opcode = s.opcode := rfl
@[simp] theorem setMem_run (s : State) (m : Memory) : (s.setMem m).run = s.run := rfl
@[simp] theorem setMem_decodeErrorPolicy (s : State) (m : Memory) : (s.setMem m).decodeErrorPolicy = s.decodeErrorPolicy := rfl
@[simp] theorem setMem_rand (s : State) (m : Memory) : (s.setMem m).rand = s.rand := rfl
@[simp] theorem setMem_draws (s : State) (m : Memory) : (s.setMem m).draws = s.draws := rfl

@[simp] theorem setDisp_v (s : State) (d : Display) : (s.setDisp d).v = s.v := rfl
@[simp] theorem setDisp_i (s : State) (d : Display) : (s.setDisp d).i = s.i := rfl
@[simp] theorem setDisp_pc (s : State) (d : Display) : (s.setDisp d).pc = s.pc := rfl
@[simp] theorem setDisp_stack (s : State) (d : Display) : (s.setDisp d).stack = s.stack := rfl
@[simp] theorem setDisp_mem (s : State) (d : Display) : (s.setDisp d).mem = s.mem := rfl
@[simp] theorem setDisp_disp (s : State) (d : Display) : (s.setDisp d).disp = d := rfl
@[simp] theorem setDisp_redraw (s : State) (d : Display) : (s.setDisp d).redraw = s.redraw := rfl
@[simp] theorem setDisp_key (s : State) (d : Display) : (s.setDisp d).key = s.key := rfl
@[simp] theorem setDisp_dt (s : State) (d : Display) : (s.setDisp d).dt = s.dt := rfl
@[simp] theorem setDisp_st (s : State) (d : Display) : (s.setDisp d).st = s.st := rfl
@[simp] theorem setDisp_opcode (s : State) (d : Display) : (s.setDisp d).opcode = s.opcode := rfl
@[simp] theorem setDisp_run (s : State) (d : Display) : (s.setDisp d).run = s.run := rfl
@[simp] theorem setDisp_decodeErrorPolicy (s : State) (d : Display) : (s.setDisp d).decodeErrorPolicy = s.decodeErrorPolicy := rfl
@[simp] theorem setDisp_rand (s : State) (d : Display) : (s.setDisp d).rand = s.rand := rfl
@[simp] theorem setDisp_draws (s : State) (d : Display) : (s.setDisp d).draws = s.draws := rfl

@[simp] theorem setRedraw_v (s : State) (b : Bool) : (s.setRedraw b).v = s.v := rfl
@[simp] theorem setRedraw_i (s : State) (b : Bool) : (s.setRedraw b).i = s.i := rfl
@[simp] theorem setRedraw_pc (s : State) (b : Bool) : (s.setRedraw b).pc = s.pc := rfl
@[simp] theorem setRedraw_stack (s : State) (b : Bool) : (s.setRedraw b).stack = s.stack := rfl
@[simp] theorem setRedraw_mem (s : State) (b : Bool) : (s.setRedraw b).mem = s.mem := rfl
@[simp] theorem setRedraw_disp (s : State) (b : Bool) : (s.setRedraw b).disp = s.disp := rfl
@[simp] theorem setRedraw_redraw (s : State) (b : Bool) : (s.setRedraw b).redraw = b := rfl
@[simp] theorem setRedraw_key (s : State) (b : Bool) : (s.setRedraw b).key = s.key := rfl
@[simp] theorem setRedraw_dt (s : State) (b : Bool) : (s.setRedraw b).dt = s.dt := rfl
@[simp] theorem setRedraw_st (s : State) (b : Bool) : (s.setRedraw b).st = s.st := rfl
@[simp] theorem setRedraw_opcode (s : State) (b : Bool) : (s.setRedraw b).opcode = s.opcode := rfl
@[simp] theorem setRedraw_run (s : State) (b : Bool) : (s.setRedraw b).run = s.run := rfl
@[simp] theorem setRedraw_decodeErrorPolicy (s : State) (b : Bool) : (s.setRedraw b).decodeErrorPolicy = s.decodeErrorPolicy := rfl
@[simp] theorem setRedraw_rand (s : State) (b : Bool) : (s.setRedraw b).rand = s.rand := rfl
@[simp] theorem setRedraw_draws (s : State) (b : Bool) : (s.setRedraw b).draws = s.draws := rfl

@[simp] theorem setKey_v (s : State) (k : Vector Bool 16) : (s.setKey k).v = s.v := rfl
@[simp] theorem setKey_i (s : State) (k : Vector Bool 16) : (s.setKey k).i = s.i := rfl
@[simp] theorem setKey_pc (s : State) (k : Vector Bool 16) : (s.setKey k).pc = s.pc := rfl
@[simp] theorem setKey_stack (s : State) (k : Vector Bool 16) : (s.setKey k).stack = s.stack := rfl
@[simp] theorem setKey_mem (s : State) (k : Vector Bool 16) : (s.setKey k).mem = s.mem := rfl
@[simp] theorem setKey_disp (s : State) (k : Vector Bool 16) : (s.setKey k).disp = s.disp := rfl
@[simp] theorem setKey_redraw (s : State) (k : Vector Bool 16) : (s.setKey k).redraw = s.redraw := rfl
@[simp] theorem setKey_key (s : State) (k : Vector Bool 16) : (s.setKey k).key = k := rfl
@[simp] theorem setKey_dt (s : State) (k : Vector Bool 16) : (s.setKey k).dt = s.dt := rfl
@[simp] theorem setKey_st (s : State) (k : Vector Bool 16) : (s.setKey k).st = s.st := rfl
@[simp] theorem setKey_opcode (s : State) (k : Vector Bool 16) : (s.setKey k).opcode = s.opcode := rfl
@[simp] theorem setKey_run (s : State) (k : Vector Bool 16) : (s.setKey k).run = s.run := rfl
@[simp] theorem setKey_decodeErrorPolicy (s : State) (k : Vector Bool 16) : (s.setKey k).decodeErrorPolicy = s.decodeErrorPolicy := rfl
@[simp] theorem setKey_rand (s : State) (k : Vector Bool 16) : (s.setKey k).rand = s.rand := rfl
@[simp] theorem setKey_draws (s : State) (k : Vector Bool 16) : (s.setKey k).draws = s.draws := rfl

@[simp] theorem setDt_v (s : State) (b : Byte) : (s.setDt b).v = s.v := rfl
@[simp] theorem setDt_i (s : State) (b : Byte) : (s.setDt b).i = s.i := rfl
@[simp] theorem setDt_pc (s : State) (b : Byte) : (s.setDt b).pc = s.pc := rfl
@[simp] theorem setDt_stack (s : State) (b : Byte) : (s.setDt b).stack = s.stack := rfl
@[simp] theorem setDt_mem (s : State) (b : Byte) : (s.setDt b).mem = s.mem := rfl
@[simp] theorem setDt_disp (s : State) (b : Byte) : (s.setDt b).disp = s.disp := rfl
@[simp] theorem setDt_redraw (s : State) (b : Byte) : (s.setDt b).redraw = s.redraw := rfl
@[simp] theorem setDt_key (s : State) (b : Byte) : (s.setDt b).key = s.key := rfl
@[simp] theorem setDt_dt (s : State) (b : Byte) : (s.setDt b).dt = b := rfl
@[simp] theorem setDt_st (s : State) (b : Byte) : (s.setDt b).st = s.st := rfl
@[simp] theorem setDt_opcode (s : State) (b : Byte) : (s.setDt b).opcode = s.opcode := rfl
@[simp] theorem setDt_run (s : State) (b : Byte) : (s.setDt b).run = s.run := rfl
@[simp] theorem setDt_decodeErrorPolicy (s : State) (b : Byte) : (s.setDt b).decodeErrorPolicy = s.decodeErrorPolicy := rfl
@[simp] theorem setDt_rand (s : State) (b : Byte) : (s.setDt b).rand = s.rand := rfl
@[simp] theorem setDt_draws (s : State) (b : Byte) : (s.setDt b).draws = s.draws := rfl

@[simp] theorem setSt_v (s : State) (b : Byte) : (s.setSt b).v = s.v := rfl
@[simp] theorem setSt_i (s : State) (b : Byte) : (s.setSt b).i = s.i := rfl
@[simp] theorem setSt_pc (s : State) (b : Byte) : (s.setSt b).pc = s.pc := rfl
@[simp] theorem setSt_stack (s : State) (b : Byte) : (s.setSt b).stack = s.stack := rfl
@[simp] theorem setSt_mem (s : State) (b : Byte) : (s.setSt b).mem = s.mem := rfl
@[simp] theorem setSt_disp (s : State) (b : Byte) : (s.setSt b).disp = s.disp := rfl
@[simp] theorem setSt_redraw (s : State) (b : Byte) : (s.setSt b).redraw = s.redraw := rfl
@[simp] theorem setSt_key (s : State) (b : Byte) : (s.setSt b).key = s.key := rfl
@[simp] theorem setSt_dt (s : State) (b : Byte) : (s.setSt b).dt = s.dt := rfl
@[simp] theorem setSt_st (s : State) (b : Byte) : (s.setSt b).st = b := rfl
@[simp] theorem setSt_opcode (s : State) (b : Byte) : (s.setSt b).opcode = s.opcode := rfl
@[simp] theorem setSt_run (s : State) (b : Byte) : (s.setSt b).run = s.run := rfl
@[simp] theorem setSt_decodeErrorPolicy (s : State) (b : Byte) : (s.setSt b).decodeErrorPolicy = s.decodeErrorPolicy := rfl
@[simp] theorem setSt_rand (s : State) (b : Byte) : (s.setSt b).rand = s.rand := rfl
@[simp] theorem setSt_draws (s : State) (b : Byte) : (s.setSt b).draws = s.draws := rfl

@[simp] theorem setOpcode_v (s : State) (w : Word) : (s.setOpcode w).v = s.v := rfl
@[simp] theorem setOpcode_i (s : State) (w : Word) : (s.setOpcode w).i = s.i := rfl
@[simp] theorem setOpcode_pc (s : State) (w : Word) : (s.setOpcode w).pc = s.pc := rfl
@[simp] theorem setOpcode_stack (s : State) (w : Word) : (s.setOpcode w).stack = s.stack := rfl
@[simp] theorem setOpcode_mem (s : State) (w : Word) : (s.setOpcode w).mem = s.mem := rfl
@[simp] theorem setOpcode_disp (s : State) (w : Word) : (s.setOpcode w).disp = s.disp := rfl
@[simp] theorem setOpcode_redraw (s : State) (w : Word) : (s.setOpcode w).redraw = s.redraw := rfl
@[simp] theorem setOpcode_key (s : State) (w : Word) : (s.setOpcode w).key = s.key := rfl
@[simp] theorem setOpcode_dt (s : State) (w : Word) : (s.setOpcode w).dt = s.dt := rfl
@[simp] theorem setOpcode_st (s : State) (w : Word) : (s.setOpcode w).st = s.st := rfl
@[simp] theorem setOpcode_opcode (s : State) (w : Word) : (s.setOpcode w).opcode = w := rfl
@[simp] theorem setOpcode_run (s : State) (w : Word) : (s.setOpcode w).run = s.run := rfl
@[simp] theorem setOpcode_decodeErrorPolicy (s : State) (w : Word) : (s.setOpcode w).decodeErrorPolicy = s.decodeErrorPolicy := rfl
@[simp] theorem setOpcode_rand (s : State) (w : Word) : (s.setOpcode w).rand = s.rand := rfl
@[simp] theorem setOpcode_draws (s : State) (w : Word) : (s.setOpcode w).draws = s.draws := rfl

@[simp] theorem setRun_v (s : State) (r : RunState) : (s.setRun r).v = s.v := rfl
@[simp] theorem setRun_i (s : State) (r : RunState) : (s.setRun r).i = s.i := rfl
@[simp] theorem setRun_pc (s : State) (r : RunState) : (s.setRun r).pc = s.pc := rfl
@[simp] theorem setRun_stack (s : State) (r : RunState) : (s.setRun r).stack = s.stack := rfl
@[simp] theorem setRun_mem (s : State) (r : RunState) : (s.setRun r).mem = s.mem := rfl
@[simp] theorem setRun_disp (s : State) (r : RunState) : (s.setRun r).disp = s.disp := rfl
@[simp] theorem setRun_redraw (s : State) (r : RunState) : (s.setRun r).redraw = s.redraw := rfl
@[simp] theorem setRun_key (s : State) (r : RunState) : (s.setRun r).key = s.key := rfl
@[simp] theorem setRun_dt (s : State) (r : RunState) : (s.setRun r).dt = s.dt := rfl
@[simp] theorem setRun_st (s : State) (r : RunState) : (s.setRun r).st = s.st := rfl
@[simp] theorem setRun_opcode (s : State) (r : RunState) : (s.setRun r).opcode = s.opcode := rfl
@[simp] theorem setRun_run (s : State) (r : RunState) : (s.setRun r).run = r := rfl
@[simp] theorem setRun_decodeErrorPolicy (s : State) (r : RunState) : (s.setRun r).decodeErrorPolicy = s.decodeErrorPolicy := rfl
@[simp] theorem setRun_rand (s : State) (r : RunState) : (s.setRun r).rand = s.rand := rfl
@[simp] theorem setRun_draws (s : State) (r : RunState) : (s.setRun r).draws = s.draws := rfl

@[simp] theorem takeRand_v (s : State) (r : Byte) : (s.takeRand r).v = s.v := rfl
@[simp] theorem takeRand_i (s : State) (r : Byte) : (s.takeRand r).i = s.i := rfl
@[simp] theorem takeRand_pc (s : State) (r : Byte) : (s.takeRand r).pc = s.pc := rfl
@[simp] theorem takeRand_stack (s : State) (r : Byte) : (s.takeRand r).stack = s.stack := rfl
@[simp] theorem takeRand_mem (s : State) (r : Byte) : (s.takeRand r).mem = s.mem := rfl
@[simp] theorem takeRand_disp (s : State) (r : Byte) : (s.takeRand r).disp = s.disp := rfl
@[simp] theorem takeRand_redraw (s : State) (r : Byte) : (s.takeRand r).redraw = s.redraw := rfl
@[simp] theorem takeRand_key (s : State) (r : Byte) : (s.takeRand r).key = s.key := rfl
@[simp] theorem takeRand_dt (s : State) (r : Byte) : (s.takeRand r).dt = s.dt := rfl
@[simp] theorem takeRand_st (s : State) (r : Byte) : (s.takeRand r).st = s.st := rfl
@[simp] theorem takeRand_opcode (s : State) (r : Byte) : (s.takeRand r).opcode = s.opcode := rfl
@[simp] theorem takeRand_run (s : State) (r : Byte) : (s.takeRand r).run = s.run := rfl
@[simp] theorem takeRand_decodeErrorPolicy (s : State) (r : Byte) : (s.takeRand r).decodeErrorPolicy = s.decodeErrorPolicy := rfl
@[simp] theorem takeRand_rand (s : State) (r : Byte) : (s.takeRand r).rand = r := rfl
@[simp] theorem takeRand_draws (s : State) (r : Byte) : (s.takeRand r).draws = s.draws + 1 := rfl

@[simp] theorem setFlagged_v (s : State) (x : RegIdx) (f b : Byte) : (s.setFlagged x f b).v = (s.v.set 15 f).set x.val b x.isLt := rfl
@[simp] theorem setFlagged_i (s : State) (x : RegIdx) (f b : Byte) : (s.setFlagged x f b).i = s.i := rfl
@[simp] theorem setFlagged_pc (s : State) (x : RegIdx) (f b : Byte) : (s.setFlagged x f b).pc = s.pc := rfl
@[simp] theorem setFlagged_stack (s : State) (x : RegIdx) (f b : Byte) : (s.setFlagged x f b).stack = s.stack := rfl
@[simp] theorem setFlagged_mem (s : State) (x : RegIdx) (f b : Byte) : (s.setFlagged x f b).mem = s.mem := rfl
@[simp] theorem setFlagged_disp (s : State) (x : RegIdx) (f b : Byte) : (s.setFlagged x f b).disp = s.disp := rfl
@[simp] theorem setFlagged_redraw (s : State) (x : RegIdx) (f b : Byte) : (s.setFlagged x f b).redraw = s.redraw := rfl
@[simp] theorem setFlagged_key (s : State) (x : RegIdx) (f b : Byte) : (s.setFlagged x f b).key = s.key := rfl
@[simp] theorem setFlagged_dt (s : State) (x : RegIdx) (f b : Byte) : (s.setFlagged x f b).dt = s.dt := rfl
@[simp] theorem setFlagged_st (s : State) (x : RegIdx) (f b : Byte) : (s.setFlagged x f b).st = s.st := rfl
@[simp] theorem setFlagged_opcode (s : State) (x : RegIdx) (f b : Byte) : (s.setFlagged x f b).opcode = s.opcode := rfl
@[simp] theorem setFlagged_run (s : State) (x : RegIdx) (f b : Byte) : (s.setFlagged x f b).run = s.run := rfl
@[simp] theorem setFlagged_decodeErrorPolicy (s : State) (x : RegIdx) (f b : Byte) : (s.setFlagged x f b).decodeErrorPolicy = s.decodeErrorPolicy := rfl
@[simp] theorem setFlagged_rand (s : State) (x : RegIdx) (f b : Byte) : (s.setFlagged x f b).rand = s.rand := rfl
@[simp] theorem setFlagged_draws (s : State) (x : RegIdx) (f b : Byte) : (s.setFlagged x f b).draws = s.draws := rfl

end Sys2Proof.Machine.State
end

