-- ==== Sys2Proof/Laws/Ops.lean ====
section
/-! SUPPORT. What each shared operation can do, once: the registers, the display cells, the bounds check and the fault. -/

namespace Sys2Proof.Machine

/-! ## Registers -/

@[simp] theorem getV_setV (s : State) (x r : RegIdx) (b : Byte) :
    (s.setV x b).getV r = if r = x then b else s.getV r := by
  simp only [State.getV, State.setV, Vector.get_eq_getElem, Vector.getElem_set]
  split <;> rename_i h
  · rw [if_pos (Fin.ext h.symm)]
  · rw [if_neg (fun e => h (congrArg Fin.val e.symm))]

@[simp] theorem getV_advance (s : State) (r : RegIdx) : s.advance.getV r = s.getV r := rfl
@[simp] theorem getV_setPc (s : State) (w : Word) (r : RegIdx) : (s.setPc w).getV r = s.getV r := rfl
@[simp] theorem getV_setRun (s : State) (x : RunState) (r : RegIdx) : (s.setRun x).getV r = s.getV r := rfl

/-- A register loaded by `writeRegs`: the byte of its place in the list, or its old value. -/
theorem get_writeRegs (v : Vector Byte 16) (k : Nat) (bs : List Byte) (r : Fin 16) :
    (writeRegs v k bs).get r =
      if h : k ≤ r.val ∧ r.val < k + bs.length then bs[r.val - k]'(by omega) else v.get r := by
  induction bs generalizing v k with
  | nil => simp only [writeRegs, List.length_nil]; rw [dif_neg (by omega)]
  | cons b bs ih =>
    rw [writeRegs, ih]
    simp only [List.length_cons]
    by_cases h : k + 1 ≤ r.val ∧ r.val < k + 1 + bs.length
    · rw [dif_pos h, dif_pos (by omega)]
      have : r.val - k = (r.val - (k + 1)) + 1 := by omega
      simp only [this, List.getElem_cons_succ]
    · rw [dif_neg h]
      simp only [Vector.get_eq_getElem, Vector.getElem_setIfInBounds]
      by_cases hk : k = r.val
      · rw [if_pos hk, dif_pos (by omega)]; simp [hk]
      · rw [if_neg hk, dif_neg (by omega)]

@[simp] theorem length_regRange (s : State) (x : RegIdx) : (s.regRange x).length = x.val + 1 := by
  simp [State.regRange]

theorem getElem_regRange (s : State) (x : RegIdx) (k : Nat) (h : k < (s.regRange x).length) :
    (s.regRange x)[k] = s.v[k]'(by have := x.isLt; simp at h; omega) := by
  simp [State.regRange]

/-! ## Display cells -/

/-- A flip inverts its own cell and leaves every other as it was. -/
theorem cell_flip (d : Display) (x x' : Fin 64) (y y' : Fin 32) :
    Display.cell (Display.flip d x y) x' y' = (Display.cell d x' y' ^^ (decide (x' = x ∧ y' = y))) := by
  simp only [Display.cell, Display.flip, Vector.get_eq_getElem, Vector.getElem_set]
  by_cases hx : x = x'
  · subst hx
    simp only [if_true, Vector.getElem_set]
    by_cases hy : y = y'
    · subst hy; simp
    · have : ¬ y.val = y'.val := fun e => hy (Fin.ext e)
      have h2 : ¬ y' = y := fun e => hy e.symm
      simp [this, h2]
  · have : ¬ x.val = x'.val := fun e => hx (Fin.ext e)
    have h2 : ¬ x' = x := fun e => hx e.symm
    simp [this, h2]

@[simp] theorem column_val (n : Nat) : (Display.column n).val = n % 64 := rfl

@[simp] theorem line_val (n : Nat) : (Display.line n).val = n % 32 := rfl

@[simp] theorem cell_blank (x : Fin 64) (y : Fin 32) : Display.cell Display.blank x y = false := by
  simp [Display.cell, Display.blank, Vector.get_eq_getElem]

/-- Two displays with the same cells are the same. -/
theorem display_ext {d e : Display} (h : ∀ x y, Display.cell d x y = Display.cell e x y) : d = e := by
  apply Vector.ext
  intro i hi
  apply Vector.ext
  intro j hj
  exact h ⟨i, hi⟩ ⟨j, hj⟩

/-! ## The bounds check and the fault -/

theorem lowestBad_eq_none {base len : Nat} : lowestBad base len = none ↔ len = 0 ∨ base + len ≤ 4096 := by
  unfold lowestBad
  split <;> simp <;> omega

theorem lowestBad_eq_some {base len a : Nat} :
    lowestBad base len = some a ↔ 0 < len ∧ base + len > 4096 ∧ a = max base 0x1000 := by
  unfold lowestBad
  split <;> simp <;> omega

/-- A data access either is inside memory and completes, or takes OutOfBoundsAccess and changes nothing else. -/
theorem checkSpan_cases (base len : Nat) (s done : State) :
    ((len = 0 ∨ base + len ≤ 4096) ∧ checkSpan base len s done = .next done) ∨
    (0 < len ∧ base + len > 4096 ∧ checkSpan base len s done =
      .next (s.setRun (.faulted (.outOfBoundsAccess (.addr (max base 0x1000)) s.pc (some s.opcode))))) := by
  unfold checkSpan
  cases h : lowestBad base len with
  | none => exact .inl ⟨lowestBad_eq_none.mp h, rfl⟩
  | some a =>
    obtain ⟨h1, h2, rfl⟩ := lowestBad_eq_some.mp h
    exact .inr ⟨h1, h2, rfl⟩

theorem checkSpan_inside {base len : Nat} {s done : State} (h : len = 0 ∨ base + len ≤ 4096) :
    checkSpan base len s done = .next done := by
  simp [checkSpan, lowestBad_eq_none.mpr h]

theorem checkSpan_outside {base len : Nat} {s done : State} (h0 : 0 < len) (h : base + len > 4096) :
    checkSpan base len s done =
      .next (s.setRun (.faulted (.outOfBoundsAccess (.addr (max base 0x1000)) s.pc (some s.opcode)))) := by
  simp [checkSpan, lowestBad_eq_some.mpr ⟨h0, h, rfl⟩, raise]

/-- The key operand is the register's value where that is a key. -/
theorem keyOperand_cases (s : State) (x : RegIdx) :
    (∃ h : (s.getV x).toNat < 16, s.keyOperand x = some ⟨(s.getV x).toNat, h⟩) ∨
    (15 < (s.getV x).toNat ∧ s.keyOperand x = none) := by
  unfold State.keyOperand
  by_cases h : (s.getV x).toNat < 16
  · exact .inl ⟨h, dif_pos h⟩
  · exact .inr ⟨by omega, dif_neg h⟩

end Sys2Proof.Machine
end

