-- ==== Sys2Proof/Laws/Display.lean ====
section
/-! SUPPORT. What one sprite row does to the cells and to the collision report, in full. -/

namespace Sys2Proof.Machine

/-- The bits of a row drawn at distinct columns: each set bit inverts its own cell, and a hit is reported exactly where a
cell to invert was 1. -/
theorem drawBits_spec (b : Byte) (x0 : Nat) (y : Fin 32) (cs : List Nat) (hn : cs.Nodup) (h8 : ∀ c ∈ cs, c < 8)
    (p : Display × Bool) :
    (∀ cx cy, Display.cell
        (cs.foldl (fun p c => drawBit (b.getLsbD (7 - c)) (Display.column (x0 + c)) y p) p).1 cx cy =
      (Display.cell p.1 cx cy ^^
        decide (cy = y ∧ ∃ c ∈ cs, b.getLsbD (7 - c) = true ∧ cx.val = (x0 + c) % 64))) ∧
    ((cs.foldl (fun p c => drawBit (b.getLsbD (7 - c)) (Display.column (x0 + c)) y p) p).2 = true ↔
      p.2 = true ∨ ∃ c ∈ cs, b.getLsbD (7 - c) = true ∧ Display.cell p.1 (Display.column (x0 + c)) y = true) := by
  induction cs generalizing p with
  | nil => simp
  | cons c cs ih =>
    simp only [List.nodup_cons] at hn
    obtain ⟨ih1, ih2⟩ := ih hn.2 (fun c hc => h8 c (List.mem_cons_of_mem _ hc))
      (drawBit (b.getLsbD (7 - c)) (Display.column (x0 + c)) y p)
    simp only [List.foldl_cons]
    by_cases hb : b.getLsbD (7 - c) = true
    · simp only [drawBit, hb, if_true] at ih1 ih2 ⊢
      refine ⟨fun cx cy => ?_, ?_⟩
      · rw [ih1, cell_flip, Bool.xor_assoc]
        congr 1
        have hcx : (cx = Display.column (x0 + c)) ↔ cx.val = (x0 + c) % 64 := by
          rw [Fin.ext_iff]; simp
        simp only [hcx]
        by_cases hy : cy = y
        · by_cases h1 : cx.val = (x0 + c) % 64
          · have : ¬ ∃ c' ∈ cs, b.getLsbD (7 - c') = true ∧ cx.val = (x0 + c') % 64 := by
              rintro ⟨c', hc', _, h2⟩
              have : c ≠ c' := fun e => hn.1 (e ▸ hc')
              have := h8 c (by simp); have := h8 c' (by simp [hc'])
              omega
            simp [hy, h1, hb]
            intro a b' c' d; exact this ⟨a, b', c', by omega⟩
          · simp [hy, h1]
        · simp [hy]
      · rw [ih2]
        simp only [List.mem_cons, exists_eq_or_imp, hb, true_and, Bool.or_eq_true, or_assoc]
        have other : ∀ c' ∈ cs, Display.cell (Display.flip p.1 (Display.column (x0 + c)) y) (Display.column (x0 + c')) y =
            Display.cell p.1 (Display.column (x0 + c')) y := by
          intro c' hc'
          have : c ≠ c' := fun e => hn.1 (e ▸ hc')
          have := h8 c (by simp); have := h8 c' (by simp [hc'])
          have : ¬ (Display.column (x0 + c') = Display.column (x0 + c)) := by
            rw [Fin.ext_iff]; simp only [column_val]; omega
          rw [cell_flip, decide_eq_false (fun h => this h.1), Bool.xor_false]
        refine or_congr Iff.rfl (or_congr Iff.rfl (exists_congr fun c' => and_congr_right fun h1 => ?_))
        rw [other c' h1]
    · simp only [Bool.not_eq_true] at hb
      simp only [drawBit, hb] at ih1 ih2 ⊢
      simp only [Bool.false_eq_true, if_false, List.mem_cons, exists_eq_or_imp, hb, false_and, false_or] at ih1 ih2 ⊢
      exact ⟨ih1, ih2⟩

/-- One row: the cells `((x0 + c) mod 64, y)` of its set bits are inverted, no other; a hit is reported exactly where one
of them was 1. -/
theorem drawRow_spec (b : Byte) (x0 : Nat) (y : Fin 32) (p : Display × Bool) :
    (∀ cx cy, Display.cell (drawRow b x0 y p).1 cx cy =
      (Display.cell p.1 cx cy ^^
        decide (cy = y ∧ ∃ c ∈ List.range 8, b.getLsbD (7 - c) = true ∧ cx.val = (x0 + c) % 64))) ∧
    ((drawRow b x0 y p).2 = true ↔
      p.2 = true ∨
        ∃ c ∈ List.range 8, b.getLsbD (7 - c) = true ∧ Display.cell p.1 (Display.column (x0 + c)) y = true) :=
  drawBits_spec b x0 y (List.range 8) List.nodup_range (fun _ h => List.mem_range.mp h) p

end Sys2Proof.Machine
end

