-- ==== Sys2Proof/Laws/Encoding.lean ====
section
/-! SUPPORT. The words of the encoder as numbers, and the fields of a word as digits of its number. -/

namespace Sys2Proof

/-- Or-ing below the lowest set bit is adding. -/
theorem or_eq_add (i : Nat) {c b : Nat} (hc : 2 ^ i ∣ c) (h : b < 2 ^ i) : c ||| b = c + b := by
  obtain ⟨a, rfl⟩ := hc
  exact (Nat.two_pow_add_eq_or_of_lt h a).symm

theorem fieldOp_eq (w : Word) : fieldOp w = w.toNat / 4096 := by
  simp only [fieldOp, BitVec.extractLsb'_toNat, Nat.shiftRight_eq_div_pow]
  have := w.isLt
  omega

theorem fieldX_eq (w : Word) : (fieldX w).val = w.toNat / 256 % 16 := by
  show (w.extractLsb' 8 4).toNat = _
  simp only [BitVec.extractLsb'_toNat, Nat.shiftRight_eq_div_pow]

theorem fieldY_eq (w : Word) : (fieldY w).val = w.toNat / 16 % 16 := by
  show (w.extractLsb' 4 4).toNat = _
  simp only [BitVec.extractLsb'_toNat, Nat.shiftRight_eq_div_pow]

theorem fieldN_eq (w : Word) : fieldN w = w.toNat % 16 := by
  simp only [fieldN, BitVec.extractLsb'_toNat, Nat.shiftRight_zero]

theorem fieldNN_eq (w : Word) : (fieldNN w).toNat = w.toNat % 256 := by
  simp only [fieldNN, BitVec.extractLsb'_toNat, Nat.shiftRight_zero]

theorem fieldNNN_eq (w : Word) : (fieldNNN w).toNat = w.toNat % 4096 := by
  simp only [fieldNNN, BitVec.toNat_setWidth, BitVec.extractLsb'_toNat, Nat.shiftRight_zero]
  omega

theorem wordNNN_toNat {m nnn : Word} {k : Nat} (hm : m.toNat = 4096 * k) (h : nnn.toNat < 4096) :
    (wordNNN m nnn).toNat = 4096 * k + nnn.toNat := by
  rw [wordNNN, BitVec.toNat_or, hm]
  exact or_eq_add 12 (by omega) h

theorem shl8_toNat (x : RegIdx) : (BitVec.ofNat 16 x.val <<< 8 : Word).toNat = 256 * x.val := by
  have := x.isLt
  simp only [BitVec.toNat_shiftLeft, BitVec.toNat_ofNat, Nat.shiftLeft_eq]
  omega

theorem shl4_toNat (x : RegIdx) : (BitVec.ofNat 16 x.val <<< 4 : Word).toNat = 16 * x.val := by
  have := x.isLt
  simp only [BitVec.toNat_shiftLeft, BitVec.toNat_ofNat, Nat.shiftLeft_eq]
  omega

theorem op_or_x {m : Word} {k : Nat} (hm : m.toNat = 4096 * k) (x : RegIdx) :
    (m ||| (BitVec.ofNat 16 x.val <<< 8)).toNat = 4096 * k + 256 * x.val := by
  have := x.isLt
  rw [BitVec.toNat_or, hm, shl8_toNat]
  exact or_eq_add 12 (by omega) (by omega)

theorem wordXNN_toNat {m : Word} {k : Nat} (hm : m.toNat = 4096 * k) (x : RegIdx) (nn : Byte) :
    (wordXNN m x nn).toNat = 4096 * k + 256 * x.val + nn.toNat := by
  have := nn.isLt
  rw [wordXNN, BitVec.toNat_or, op_or_x hm, BitVec.toNat_setWidth, Nat.mod_eq_of_lt (by omega)]
  exact or_eq_add 8 (by omega) nn.isLt

theorem wordXYN_toNat {m : Word} {k : Nat} (hm : m.toNat = 4096 * k) (x y : RegIdx) {n : Nat} (hn : n < 16) :
    (wordXYN m x y n).toNat = 4096 * k + 256 * x.val + 16 * y.val + n := by
  have := y.isLt
  have e : 4096 * k + 256 * x.val ||| 16 * y.val = 4096 * k + 256 * x.val + 16 * y.val :=
    or_eq_add 8 (by omega) (by omega)
  rw [wordXYN, BitVec.toNat_or, BitVec.toNat_or, op_or_x hm, shl4_toNat, BitVec.toNat_ofNat,
    Nat.mod_eq_of_lt (by omega), e]
  exact or_eq_add 4 (by omega) hn

/-! The three masks of the opcode map, as digits of the word. -/

theorem mask_op_toNat (w : Word) : (w &&& 0xF000).toNat = 4096 * (w.toNat / 4096) := by
  have h : w &&& (0xF000 : Word) = (w >>> 12) <<< 12 := by
    ext i hi
    interval_cases i <;> simp
  rw [h]
  have := w.isLt
  simp only [BitVec.toNat_shiftLeft, BitVec.toNat_ushiftRight, Nat.shiftLeft_eq, Nat.shiftRight_eq_div_pow]
  omega

theorem mask_low_toNat (w : Word) : (w &&& 0x000F).toNat = w.toNat % 16 := by
  rw [BitVec.toNat_and]
  exact Nat.and_two_pow_sub_one_eq_mod w.toNat 4

theorem mask_byte_toNat (w : Word) : (w &&& 0x00FF).toNat = w.toNat % 256 := by
  rw [BitVec.toNat_and]
  exact Nat.and_two_pow_sub_one_eq_mod w.toNat 8

theorem mask_opLow_toNat (w : Word) : (w &&& 0xF00F).toNat = 4096 * (w.toNat / 4096) + w.toNat % 16 := by
  have h : w &&& 0xF00F = (w &&& 0xF000) ||| (w &&& 0x000F) := by
    ext i hi
    interval_cases i <;> simp
  rw [h, BitVec.toNat_or, mask_op_toNat, mask_low_toNat]
  exact or_eq_add 12 (by omega) (by omega)

theorem mask_opByte_toNat (w : Word) : (w &&& 0xF0FF).toNat = 4096 * (w.toNat / 4096) + w.toNat % 256 := by
  have h : w &&& 0xF0FF = (w &&& 0xF000) ||| (w &&& 0x00FF) := by
    ext i hi
    interval_cases i <;> simp
  rw [h, BitVec.toNat_or, mask_op_toNat, mask_byte_toNat]
  exact or_eq_add 12 (by omega) (by omega)

end Sys2Proof
end

