-- ==== Sys2Proof/Laws/Engine.lean ====
section
/-! SUPPORT. What the fetch, an illegal word, the cycle and the host's operations can do, once each. -/

namespace Sys2Proof.Machine

/-! ## Fetch, illegal words, the cycle -/

theorem fetchAt_inside {m : Memory} {a : Nat} (h : a ≤ 4094) :
    fetchAt m a = some (m.read a ++ m.read (a + 1)) := by
  simp [fetchAt, wordOfBytes]; omega

theorem fetchAt_outside {m : Memory} {a : Nat} (h : a > 4094) : fetchAt m a = none := by
  simp [fetchAt, h]

/-- An illegal word either faults or is stepped over, as the policy says. -/
theorem illegal_cases (w : Word) (s : State) :
    (s.decodeErrorPolicy = .fatal ∧ illegal w s = .next (s.setRun (.faulted (.decodeError w s.pc)))) ∨
    (s.decodeErrorPolicy = .skip ∧ illegal w s = .next s.advance) := by
  unfold illegal
  cases h : s.decodeErrorPolicy with
  | fatal => exact .inl ⟨rfl, rfl⟩
  | skip => exact .inr ⟨rfl, rfl⟩

/-- The cycle is one of three: a fetch out of bounds, the meaning of the fetched instruction, an illegal word. -/
theorem cycle_cases (s : State) :
    (s.pc.toNat > 4094 ∧
      cycle s = .next (s.setRun (.faulted (.outOfBoundsAccess (.addr s.pc.toNat) s.pc none)))) ∨
    (s.pc.toNat ≤ 4094 ∧ ∃ w, fetchAt s.mem s.pc.toNat = some w ∧
      ((∃ i, decodeWord w = .ok i ∧ cycle s = exec i (s.setOpcode w)) ∨
        (∃ e, decodeWord w = .error e ∧ cycle s = illegal w (s.setOpcode w)))) := by
  by_cases h : s.pc.toNat ≤ 4094
  · refine .inr ⟨h, _, fetchAt_inside h, ?_⟩
    simp only [cycle, fetchAt_inside h, decodeExecute]
    cases hd : decodeWord (s.mem.read s.pc.toNat ++ s.mem.read (s.pc.toNat + 1)) with
    | ok i => exact .inl ⟨i, rfl, rfl⟩
    | error e => exact .inr ⟨e, rfl, rfl⟩
  · refine .inl ⟨by omega, ?_⟩
    simp only [cycle, fetchAt_outside (by omega : s.pc.toNat > 4094), raise]

/-! ## Ticks, keys, Load -/

theorem countDown_toNat (b : Byte) : (countDown b).toNat = b.toNat - 1 := by
  unfold countDown
  split
  · next h => subst h; rfl
  · next h =>
    have : b.toNat ≠ 0 := fun e => h (BitVec.eq_of_toNat_eq e)
    have := b.isLt
    simp [BitVec.toNat_sub]; omega

theorem mem_pressEvents {old new : Vector Bool 16} {j : RegIdx} :
    j ∈ pressEvents old new ↔ old.get j = false ∧ new.get j = true := by
  simp [pressEvents]

theorem wf_loadImage {font : Vector Byte 80} {rom : List Byte} (h : 0x200 + rom.length ≤ 4096) :
    (loadImage font rom).wf = true := by
  unfold loadImage
  apply Memory.wf_writeBytes (by simpa [Config.romBase] using h)
  exact Memory.wf_writeBytes (by simp) rfl

/-- Load reads of the old state only what is no VM state. -/
theorem load_carried (font : Vector Byte 80) (rom : List Byte) (s : State) :
    load font rom s = load font rom s.carried.fresh := rfl

/-! ## The core with or without a VM state -/

@[simp] theorem carried_fresh (c : Carried) : c.fresh.carried = c := rfl

@[simp] theorem settle_next (v : Vm) (c : Carried) (s : State) (r : Reply) :
    Vm.settle v c (.next (s, r)) = (.present s, r) := rfl

@[simp] theorem settle_fault (v : Vm) (c : Carried) (f : Fault) : Vm.settle v c (.fault f) = (.absent c, .failed f) := rfl

@[simp] theorem settle_refused (v : Vm) (c : Carried) (e : Refusal) : Vm.settle v c (.refused e) = (v, .refused e) := rfl

/-- What a transaction leads to: the next state of `transact`, no state after a fault, the same state after a refusal; from
no VM state a state by Load alone. -/
theorem transactVm_cases (t : Transaction) (v : Vm) :
    (∃ s s' r, v = .present s ∧ transact t s = .next (s', r) ∧ transactVm t v = (.present s', r)) ∨
    (∃ s e, v = .present s ∧ transact t s = .refused e ∧ transactVm t v = (.present s, .refused e)) ∨
    (∃ c font rom s' r, v = .absent c ∧ t = .load font rom ∧ transact t c.fresh = .next (s', r) ∧
      transactVm t v = (.present s', r)) ∨
    (∃ c, (transactVm t v).1 = .absent c) := by
  cases v with
  | present s =>
    cases h : transact t s with
    | next p => exact .inl ⟨s, p.1, p.2, rfl, h, by simp [transactVm, h, Vm.settle]⟩
    | refused e => exact .inr (.inl ⟨s, e, rfl, h, by simp [transactVm, h]⟩)
    | fault f => exact .inr (.inr (.inr ⟨s.carried, by simp [transactVm, h]⟩))
  | absent c =>
    cases t with
    | load font rom =>
      cases h : transact (.load font rom) c.fresh with
      | next p => exact .inr (.inr (.inl ⟨c, font, rom, p.1, p.2, rfl, rfl, h, by simp [transactVm, h, Vm.settle]⟩))
      | refused e => exact .inr (.inr (.inr ⟨c, by simp [transactVm, h]⟩))
      | fault f => exact .inr (.inr (.inr ⟨c, by simp [transactVm, h]⟩))
    | step _ | tick | keyUpdate _ _ | displayRead | displayAck => exact .inr (.inr (.inr ⟨c, rfl⟩))

/-! ## Where the next instruction is placed -/

/-- The two bytes of a word, joined, are the word. -/
theorem wordOfBytes_halves (w : Word) : w.extractLsb' 8 8 ++ w.extractLsb' 0 8 = w := by
  apply BitVec.eq_of_getLsbD_eq
  intro i hi
  simp only [BitVec.getLsbD_append, BitVec.getLsbD_extractLsb']
  by_cases h : i < 8
  · simp [h]
  · simp only [h, decide_false, Nat.add_sub_cancel' (by omega : 8 ≤ i)]
    simp; omega

/-- A word placed in memory is fetched back. -/
theorem fetchAt_writeBytes {m : Memory} (hm : m.wf = true) {a : Nat} (h : a ≤ 4094) (w : Word) :
    fetchAt (m.writeBytes a (wordBytes w)) a = some w := by
  have hl : (wordBytes w).length = 2 := rfl
  have h0 := Memory.read_writeBytes_inside hm (a := a) (bs := wordBytes w) (by omega) (k := 0) (by omega)
  have h1 := Memory.read_writeBytes_inside hm (a := a) (bs := wordBytes w) (by omega) (k := 1) (by omega)
  rw [Nat.add_zero] at h0
  rw [fetchAt_inside h, h0, h1]
  exact congrArg some (wordOfBytes_halves w)

/-- The word placed by `withFetchWord` is the word the next Step fetches, by a running core. -/
theorem fetch_withFetchWord (s : State) (w : Nat) (h : s.mem.wf = true) :
    (s.withFetchWord 16 w).run = .running ∧
    fetchAt (s.withFetchWord 16 w).mem (s.withFetchWord 16 w).pc.toNat = some (tableWord 16 w) := by
  refine ⟨by simp only [State.withFetchWord, State.setMem_run, State.setPc_run, State.setRun_run], ?_⟩
  simp only [State.withFetchWord, State.setMem_mem, State.setMem_pc, State.setPc_pc]
  apply fetchAt_writeBytes h
  split
  · simp
  · omega

end Sys2Proof.Machine
end

