-- ==== Sys2Proof/Laws/PerInstr.lean ====
section
/-! SUPPORT. The encoder against the opcode map, instruction by instruction. -/

namespace Sys2Proof.Laws.RowEncoding

/-- The word of a well-formed instruction matches its row of R106 (30_encoding.md). -/
def Statement (i : Instr) : Prop := i.wf = true → i.row.hits (encode i) = true

/-! A word given as digits matches a row given as digits. -/

theorem hits_op {w m : Word} {k r : Nat} {s : String} (hm : m.toNat = 4096 * k)
    (hw : w.toNat = 4096 * k + r) (hr : r < 4096) : OpcodeRow.hits ⟨s, m, 0xF000⟩ w = true := by
  simp only [OpcodeRow.hits, beq_iff_eq]
  apply BitVec.eq_of_toNat_eq
  rw [mask_op_toNat]
  omega

theorem hits_opLow {w m : Word} {k r n : Nat} {s : String} (hm : m.toNat = 4096 * k + n)
    (hw : w.toNat = 4096 * k + 16 * r + n) (hr : r < 256) (hn : n < 16) :
    OpcodeRow.hits ⟨s, m, 0xF00F⟩ w = true := by
  simp only [OpcodeRow.hits, beq_iff_eq]
  apply BitVec.eq_of_toNat_eq
  rw [mask_opLow_toNat]
  omega

theorem hits_opByte {w m : Word} {k r n : Nat} {s : String} (hm : m.toNat = 4096 * k + n)
    (hw : w.toNat = 4096 * k + 256 * r + n) (hr : r < 16) (hn : n < 256) :
    OpcodeRow.hits ⟨s, m, 0xF0FF⟩ w = true := by
  simp only [OpcodeRow.hits, beq_iff_eq]
  apply BitVec.eq_of_toNat_eq
  rw [mask_opByte_toNat]
  omega

theorem hits_nnn {m nnn : Word} {k : Nat} {s : String} (hm : m.toNat = 4096 * k) (h : addrFits nnn = true) :
    OpcodeRow.hits ⟨s, m, 0xF000⟩ (wordNNN m nnn) = true := by
  simp only [addrFits, decide_eq_true_eq] at h
  exact hits_op hm (wordNNN_toNat hm (by omega)) (by omega)

theorem hits_xnn {m : Word} {k : Nat} {s : String} (hm : m.toNat = 4096 * k) (x : RegIdx) (nn : Byte) :
    OpcodeRow.hits ⟨s, m, 0xF000⟩ (wordXNN m x nn) = true := by
  have := nn.isLt
  have := x.isLt
  exact hits_op (r := 256 * x.val + nn.toNat) hm (by rw [wordXNN_toNat hm]; omega) (by omega)

theorem hits_xy {m m' : Word} {k n : Nat} {s : String} (hm : m.toNat = 4096 * k) (hm' : m'.toNat = 4096 * k + n)
    (x y : RegIdx) (hn : n < 16) : OpcodeRow.hits ⟨s, m', 0xF00F⟩ (wordXYN m x y n) = true := by
  have := x.isLt
  have := y.isLt
  exact hits_opLow (r := 16 * x.val + y.val) hm' (by rw [wordXYN_toNat hm x y hn]; omega) (by omega) hn

theorem hits_xss {m m' : Word} {k : Nat} {s : String} (nn : Byte) (hm : m.toNat = 4096 * k)
    (hm' : m'.toNat = 4096 * k + nn.toNat) (x : RegIdx) :
    OpcodeRow.hits ⟨s, m', 0xF0FF⟩ (wordXNN m x nn) = true :=
  hits_opByte hm' (wordXNN_toNat hm x nn) x.isLt nn.isLt

theorem cls : Statement .cls := fun _ => by decide

theorem ret : Statement .ret := fun _ => by decide

theorem jpAddr (nnn : Word) : Statement (.jpAddr nnn) := hits_nnn (k := 1) (by decide)

theorem callAddr (nnn : Word) : Statement (.callAddr nnn) := hits_nnn (k := 2) (by decide)

theorem seVxByte (x : RegIdx) (nn : Byte) : Statement (.seVxByte x nn) := fun _ => hits_xnn (k := 3) (by decide) x nn

theorem sneVxByte (x : RegIdx) (nn : Byte) : Statement (.sneVxByte x nn) := fun _ => hits_xnn (k := 4) (by decide) x nn

theorem seVxVy (x y : RegIdx) : Statement (.seVxVy x y) := fun _ =>
  hits_xy (k := 5) (by decide) (by decide) x y (by decide)

theorem ldVxByte (x : RegIdx) (nn : Byte) : Statement (.ldVxByte x nn) := fun _ => hits_xnn (k := 6) (by decide) x nn

theorem addVxByte (x : RegIdx) (nn : Byte) : Statement (.addVxByte x nn) := fun _ => hits_xnn (k := 7) (by decide) x nn

theorem ldVxVy (x y : RegIdx) : Statement (.ldVxVy x y) := fun _ =>
  hits_xy (k := 8) (by decide) (by decide) x y (by decide)

theorem orVxVy (x y : RegIdx) : Statement (.orVxVy x y) := fun _ =>
  hits_xy (k := 8) (by decide) (by decide) x y (by decide)

theorem andVxVy (x y : RegIdx) : Statement (.andVxVy x y) := fun _ =>
  hits_xy (k := 8) (by decide) (by decide) x y (by decide)

theorem xorVxVy (x y : RegIdx) : Statement (.xorVxVy x y) := fun _ =>
  hits_xy (k := 8) (by decide) (by decide) x y (by decide)

theorem addVxVy (x y : RegIdx) : Statement (.addVxVy x y) := fun _ =>
  hits_xy (k := 8) (by decide) (by decide) x y (by decide)

theorem subVxVy (x y : RegIdx) : Statement (.subVxVy x y) := fun _ =>
  hits_xy (k := 8) (by decide) (by decide) x y (by decide)

theorem shrVxVy (x y : RegIdx) : Statement (.shrVxVy x y) := fun _ =>
  hits_xy (k := 8) (by decide) (by decide) x y (by decide)

theorem subnVxVy (x y : RegIdx) : Statement (.subnVxVy x y) := fun _ =>
  hits_xy (k := 8) (by decide) (by decide) x y (by decide)

theorem shlVxVy (x y : RegIdx) : Statement (.shlVxVy x y) := fun _ =>
  hits_xy (k := 8) (by decide) (by decide) x y (by decide)

theorem sneVxVy (x y : RegIdx) : Statement (.sneVxVy x y) := fun _ =>
  hits_xy (k := 9) (by decide) (by decide) x y (by decide)

theorem ldIAddr (nnn : Word) : Statement (.ldIAddr nnn) := hits_nnn (k := 10) (by decide)

theorem jpV0Addr (nnn : Word) : Statement (.jpV0Addr nnn) := hits_nnn (k := 11) (by decide)

theorem rndVxByte (x : RegIdx) (nn : Byte) : Statement (.rndVxByte x nn) := fun _ => hits_xnn (k := 12) (by decide) x nn

theorem drwVxVyNibble (x y : RegIdx) (n : Nat) : Statement (.drwVxVyNibble x y n) := fun h => by
  simp only [Instr.wf, heightFits, decide_eq_true_eq] at h
  have := x.isLt
  have := y.isLt
  exact hits_op (k := 13) (r := 256 * x.val + 16 * y.val + n) (by decide)
    (by rw [encode, wordXYN_toNat (k := 13) (by decide) x y (by omega)]; omega) (by omega)

theorem skpVx (x : RegIdx) : Statement (.skpVx x) := fun _ => hits_xss 0x9E (k := 14) (by decide) (by decide) x

theorem sknpVx (x : RegIdx) : Statement (.sknpVx x) := fun _ => hits_xss 0xA1 (k := 14) (by decide) (by decide) x

theorem ldVxDt (x : RegIdx) : Statement (.ldVxDt x) := fun _ => hits_xss 0x07 (k := 15) (by decide) (by decide) x

theorem ldVxK (x : RegIdx) : Statement (.ldVxK x) := fun _ => hits_xss 0x0A (k := 15) (by decide) (by decide) x

theorem ldDtVx (x : RegIdx) : Statement (.ldDtVx x) := fun _ => hits_xss 0x15 (k := 15) (by decide) (by decide) x

theorem ldStVx (x : RegIdx) : Statement (.ldStVx x) := fun _ => hits_xss 0x18 (k := 15) (by decide) (by decide) x

theorem addIVx (x : RegIdx) : Statement (.addIVx x) := fun _ => hits_xss 0x1E (k := 15) (by decide) (by decide) x

theorem ldFVx (x : RegIdx) : Statement (.ldFVx x) := fun _ => hits_xss 0x29 (k := 15) (by decide) (by decide) x

theorem ldBVx (x : RegIdx) : Statement (.ldBVx x) := fun _ => hits_xss 0x33 (k := 15) (by decide) (by decide) x

theorem ldMemVx (x : RegIdx) : Statement (.ldMemVx x) := fun _ => hits_xss 0x55 (k := 15) (by decide) (by decide) x

theorem ldVxMem (x : RegIdx) : Statement (.ldVxMem x) := fun _ => hits_xss 0x65 (k := 15) (by decide) (by decide) x

end Sys2Proof.Laws.RowEncoding
end

