-- ==== Sys2Proof/Tests/Slice0.lean ====
section
/-! SUPPORT. Tests: ill-formed terms refused; every pattern of R106 decoded from a word written out by hand; single steps
with the results of spec/95_test_vectors.md (the vector's name stands at each test); and for each obligation with
hypotheses a state and operands that meet them. -/

namespace Sys2Proof.Tests

open Sys2Proof Sys2Proof.Machine

/-! ## Well-formedness refuses what no encoding holds (R103) -/

theorem test_wf_refuses_jump : (Instr.jpAddr 0x1000).wf = false := by decide
theorem test_wf_refuses_call : (Instr.callAddr 0x1000).wf = false := by decide
theorem test_wf_refuses_index : (Instr.ldIAddr 0xFFFF).wf = false := by decide
theorem test_wf_refuses_offset_jump : (Instr.jpV0Addr 0x1000).wf = false := by decide
theorem test_wf_refuses_height : (Instr.drwVxVyNibble 0 0 16).wf = false := by decide
theorem test_wf_accepts_limits :
    (Instr.jpAddr 0xFFF).wf = true ∧ (Instr.drwVxVyNibble 15 15 15).wf = true := by decide

/-! ## Decoding: one word for each pattern, its nibbles written out (R106) -/

theorem test_decode_control :
    decodeTableWord 16 0x00E0 = some .cls ∧ decodeTableWord 16 0x00EE = some .ret ∧
    decodeTableWord 16 0x1ABC = some (.jpAddr 0xABC) ∧ decodeTableWord 16 0x2DEF = some (.callAddr 0xDEF) ∧
    decodeTableWord 16 0x3A5C = some (.seVxByte 10 0x5C) ∧ decodeTableWord 16 0x4A5C = some (.sneVxByte 10 0x5C) ∧
    decodeTableWord 16 0x5A30 = some (.seVxVy 10 3) ∧ decodeTableWord 16 0x9A30 = some (.sneVxVy 10 3) ∧
    decodeTableWord 16 0xB123 = some (.jpV0Addr 0x123) := by decide

theorem test_decode_alu :
    decodeTableWord 16 0x6A5C = some (.ldVxByte 10 0x5C) ∧ decodeTableWord 16 0x7A5C = some (.addVxByte 10 0x5C) ∧
    decodeTableWord 16 0x8A30 = some (.ldVxVy 10 3) ∧ decodeTableWord 16 0x8A31 = some (.orVxVy 10 3) ∧
    decodeTableWord 16 0x8A32 = some (.andVxVy 10 3) ∧ decodeTableWord 16 0x8A33 = some (.xorVxVy 10 3) ∧
    decodeTableWord 16 0x8A34 = some (.addVxVy 10 3) ∧ decodeTableWord 16 0x8A35 = some (.subVxVy 10 3) ∧
    decodeTableWord 16 0x8A36 = some (.shrVxVy 10 3) ∧ decodeTableWord 16 0x8A37 = some (.subnVxVy 10 3) ∧
    decodeTableWord 16 0x8A3E = some (.shlVxVy 10 3) ∧ decodeTableWord 16 0xCA5C = some (.rndVxByte 10 0x5C) := by decide

theorem test_decode_memory_display :
    decodeTableWord 16 0xA123 = some (.ldIAddr 0x123) ∧ decodeTableWord 16 0xDA3F = some (.drwVxVyNibble 10 3 15) ∧
    decodeTableWord 16 0xFA1E = some (.addIVx 10) ∧ decodeTableWord 16 0xFA29 = some (.ldFVx 10) ∧
    decodeTableWord 16 0xFA33 = some (.ldBVx 10) ∧ decodeTableWord 16 0xFA55 = some (.ldMemVx 10) ∧
    decodeTableWord 16 0xFA65 = some (.ldVxMem 10) := by decide

theorem test_decode_keys_timers :
    decodeTableWord 16 0xEA9E = some (.skpVx 10) ∧ decodeTableWord 16 0xEAA1 = some (.sknpVx 10) ∧
    decodeTableWord 16 0xFA07 = some (.ldVxDt 10) ∧ decodeTableWord 16 0xFA0A = some (.ldVxK 10) ∧
    decodeTableWord 16 0xFA15 = some (.ldDtVx 10) ∧ decodeTableWord 16 0xFA18 = some (.ldStVx 10) := by decide

/-- X1 to X14: illegal words, each rejected by the name of its group (R107). -/
theorem test_decode_illegal :
    decodeWord 0x0000 = .error (.zeroFamily 0x0000) ∧ decodeWord 0x01E0 = .error (.zeroFamily 0x01E0) ∧
    decodeWord 0x00E1 = .error (.zeroFamily 0x00E1) ∧ decodeWord 0x00EF = .error (.zeroFamily 0x00EF) ∧
    decodeWord 0x912F = .error (.registerSkip 0x912F) ∧ decodeWord 0x8008 = .error (.aluSub 0x8008) ∧
    decodeWord 0xE0A2 = .error (.keySub 0xE0A2) ∧ decodeWord 0xF000 = .error (.miscSub 0xF000) ∧
    decodeWord 0xF01F = .error (.miscSub 0xF01F) := by decide

/-- The first byte of memory is the high one (R75). -/
theorem test_decode_bytes :
    decodeBytes [0x12, 0x34, 0xFF] = .ok (.jpAddr 0x234, [0xFF]) ∧ decodeBytes [0x12] = .error .tooShort := by decide

/-! ## Small states -/

/-- The reset state with some registers written and `I` set. -/
def start (rs : List (RegIdx × Byte)) (i : Word) : State :=
  (rs.foldl (fun s p => s.setV p.1 p.2) State.reset).setI i

/-- The same with bytes of memory from `I` on. -/
def startBytes (rs : List (RegIdx × Byte)) (i : Word) (bs : List Byte) : State :=
  (start rs i).setMem ((start rs i).mem.writeBytes i.toNat bs)

/-- A field of the state after a result, none after a fault or a refusal. -/
def after {α : Type} (f : State → α) (r : Result) : Option α :=
  match r with
  | .next t => some (f t)
  | .fault _ => none
  | .refused _ => none

/-- One Step with input `rand` on the word `w` at PC. -/
def one (rand : Byte) (w : Nat) (s : State) : Result := stepRand rand (s.withFetchWord 16 w)

/-! ## Control flow -/

/-- CF1. -/
theorem test_ret_empty : after (fun t => (t.run, t.pc)) (one 0 0x00EE State.reset) =
    some (.faulted (.stackUnderflow 0x00EE 0x200), 0x200) := by decide
/-- CF2. -/
theorem test_ret : after (fun t => (t.stack, t.pc)) (one 0 0x00EE ((State.reset.setPc 0x300).setStack [0x200])) =
    some ([], 0x202) := by decide
/-- CF4. -/
theorem test_jp : after (fun t => t.pc) (one 0 0x1228 State.reset) = some 0x228 := by decide
/-- CF7. -/
theorem test_call : after (fun t => (t.stack, t.pc))
    (one 0 0x2400 ((State.reset.setPc 0x206).setStack (List.replicate 15 0x200))) =
    some (0x206 :: List.replicate 15 0x200, 0x400) := by decide
/-- CF8. -/
theorem test_call_full : after (fun t => (t.run, t.stack.length, t.pc))
    (one 0 0x2400 ((State.reset.setPc 0x206).setStack (List.replicate 16 0x200))) =
    some (.faulted (.stackOverflow 0x2400 0x206), 16, 0x206) := by decide
/-- CF9, CF10. -/
theorem test_se_byte : after (fun t => t.pc) (one 0 0x3342 (start [(3, 0x42)] 0)) = some 0x204 ∧
    after (fun t => t.pc) (one 0 0x3343 (start [(3, 0x42)] 0)) = some 0x202 := by decide
/-- CF11, CF12. -/
theorem test_sne_byte : after (fun t => t.pc) (one 0 0x4342 (start [(3, 0x42)] 0)) = some 0x202 ∧
    after (fun t => t.pc) (one 0 0x4300 (start [(3, 0x42)] 0)) = some 0x204 := by decide
/-- CF13, CF14. -/
theorem test_se_reg : after (fun t => t.pc) (one 0 0x5330 (start [(3, 0x42)] 0)) = some 0x204 ∧
    after (fun t => t.pc) (one 0 0x5120 (start [(1, 7), (2, 8)] 0)) = some 0x202 := by decide
/-- CF15, CF16. -/
theorem test_sne_reg : after (fun t => t.pc) (one 0 0x9330 (start [(3, 0x42)] 0)) = some 0x202 ∧
    after (fun t => t.pc) (one 0 0x9120 (start [(1, 7), (2, 8)] 0)) = some 0x204 := by decide
/-- CF20. -/
theorem test_offset_jump_high : after (fun t => t.pc) (one 0 0xBFFF (start [(0, 0xFF)] 0)) = some 0x10FE := by decide
/-- CF21. -/
theorem test_offset_jump_v0 : after (fun t => t.pc) (one 0 0xB520 (start [(5, 0x40)] 0)) = some 0x520 := by decide

/-! ## Registers and arithmetic -/

/-- A1. -/
theorem test_ld_byte : after (fun t => (t.v.get 10, t.pc)) (one 0 0x6A5C State.reset) = some (0x5C, 0x202) := by decide
/-- A2. -/
theorem test_add_byte : after (fun t => (t.v.get 10, t.v.get 15))
    (one 0 0x7AFF (start [(10, 1), (15, 0x55)] 0)) = some (0, 0x55) := by decide
/-- A4. -/
theorem test_ld_reg : after (fun t => (t.v.get 1, t.v.get 15))
    (one 0 0x8120 (start [(1, 1), (2, 0x99), (15, 0x77)] 0)) = some (0x99, 0x77) := by decide
/-- A5. -/
theorem test_or : after (fun t => (t.v.get 1, t.v.get 15))
    (one 0 0x8121 (start [(1, 0xF0), (2, 0x0F), (15, 0x77)] 0)) = some (0xFF, 0x77) := by decide
/-- A6. -/
theorem test_and : after (fun t => (t.v.get 1, t.v.get 15))
    (one 0 0x8122 (start [(1, 0xF0), (2, 0x3C), (15, 0x77)] 0)) = some (0x30, 0x77) := by decide
/-- A7. -/
theorem test_xor : after (fun t => (t.v.get 1, t.v.get 15))
    (one 0 0x8123 (start [(1, 0xFF), (2, 0x0F), (15, 0x77)] 0)) = some (0xF0, 0x77) := by decide
/-- A12. -/
theorem test_add_into_flag : after (fun t => t.v.get 15) (one 0 0x8F14 (start [(15, 0xFF), (1, 1)] 0)) = some 0 := by decide
/-- A13. -/
theorem test_add_from_flag : after (fun t => (t.v.get 1, t.v.get 15))
    (one 0 0x81F4 (start [(15, 0xFF), (1, 1)] 0)) = some (0, 1) := by decide
/-- A14. -/
theorem test_sub_equal : after (fun t => (t.v.get 1, t.v.get 15)) (one 0 0x8125 (start [(1, 5), (2, 5)] 0)) =
    some (0, 1) := by decide
/-- A15. -/
theorem test_sub_borrow : after (fun t => (t.v.get 1, t.v.get 15)) (one 0 0x8125 (start [(1, 4), (2, 5)] 0)) =
    some (0xFF, 0) := by decide
/-- A17. -/
theorem test_shr : after (fun t => (t.v.get 1, t.v.get 15)) (one 0 0x8126 (start [(1, 5), (2, 0xAA)] 0)) =
    some (2, 1) := by decide
/-- A19. -/
theorem test_shr_flag : after (fun t => t.v.get 15) (one 0 0x8F06 (start [(15, 2)] 0)) = some 1 := by decide
/-- A21. -/
theorem test_subn_borrow : after (fun t => (t.v.get 1, t.v.get 15)) (one 0 0x8127 (start [(1, 5), (2, 3)] 0)) =
    some (0xFE, 0) := by decide
/-- A23. -/
theorem test_subn_equal : after (fun t => (t.v.get 1, t.v.get 15)) (one 0 0x8127 (start [(1, 5), (2, 5)] 0)) =
    some (0, 1) := by decide
/-- A24. -/
theorem test_shl : after (fun t => (t.v.get 1, t.v.get 15)) (one 0 0x812E (start [(1, 0x81)] 0)) = some (2, 1) := by decide
/-- A26. -/
theorem test_shl_flag : after (fun t => t.v.get 15) (one 0 0x8FFE (start [(15, 0x80)] 0)) = some 0 := by decide
/-- A27. -/
theorem test_rnd : after (fun t => t.v.get 3) (one 0xAB 0xC30F State.reset) = some 0x0B := by decide
/-- A28. -/
theorem test_rnd_zero : after (fun t => t.v.get 3) (one 0xFF 0xC300 (start [(3, 9)] 0)) = some 0 := by decide

/-! ## Index register and memory -/

/-- M1. -/
theorem test_ld_index : after (fun t => t.i) (one 0 0xA123 State.reset) = some 0x123 := by decide
/-- M2. -/
theorem test_add_index : after (fun t => (t.i, t.v.get 15)) (one 0 0xF31E (start [(3, 1), (15, 7)] 0xFFF)) =
    some (0x1000, 7) := by decide
/-- M3. -/
theorem test_add_index_wraps : after (fun t => t.i) (one 0 0xF31E (start [(3, 1)] 0xFFFF)) = some 0 := by decide
/-- M5. -/
theorem test_glyph : after (fun t => t.i) (one 0 0xF329 (start [(3, 0xFF)] 0)) = some 0x4FB := by decide
/-- M6. -/
theorem test_bcd : after (fun t => (t.mem.readBytes 0x300 3, t.i)) (one 0 0xF333 (start [(3, 234)] 0x300)) =
    some ([2, 3, 4], 0x300) := by decide
/-- M10. -/
theorem test_bcd_outside : after (fun t => (t.run, t.mem.readBytes 0xFFE 2)) (one 0 0xF333 (start [(3, 123)] 0xFFE)) =
    some (.faulted (.outOfBoundsAccess (.addr 0x1000) 0x200 (some 0xF333)), [0, 0]) := by decide
/-- M11. -/
theorem test_store : after (fun t => (t.mem.readBytes 0x300 4, t.i))
    (one 0 0xF255 (start [(0, 1), (1, 2), (2, 3), (3, 4)] 0x300)) = some ([1, 2, 3, 0], 0x300) := by decide
/-- M13. -/
theorem test_store_outside : after (fun t => (t.run, t.mem.read 0xFF1)) (one 0 0xFF55 (start [(0, 9)] 0xFF1)) =
    some (.faulted (.outOfBoundsAccess (.addr 0x1000) 0x200 (some 0xFF55)), 0) := by decide
/-- M14. -/
theorem test_load : after (fun t => (t.v.get 0, t.v.get 1)) (one 0 0xF065 (startBytes [(1, 8)] 0xFFF [0x42])) =
    some (0x42, 8) := by decide
/-- M16. -/
theorem test_load_outside : after (fun t => t.run) (one 0 0xF165 (start [] 0x5000)) =
    some (.faulted (.outOfBoundsAccess (.addr 0x5000) 0x200 (some 0xF165))) := by decide

/-! ## Display -/

/-- D1. -/
theorem test_cls : after (fun t => (decide (t.disp = Display.blank), t.redraw))
    (one 0 0x00E0 (State.reset.setDisp (Display.flip Display.blank 5 5))) = some (true, true) := by decide
/-- D4. -/
theorem test_draw_collides : after (fun t => (t.disp.cell 0 0, t.disp.cell 7 1, t.v.get 15, t.redraw))
    (one 0 0xD012 ((startBytes [] 0x300 [0x80, 0x01]).setDisp (Display.flip Display.blank 0 0))) =
    some (false, true, 1, true) := by decide
/-- D8: the coordinates are vF's old value. -/
theorem test_draw_flag_coordinates : after (fun t => (t.disp.cell 2 2, t.v.get 15))
    (one 0 0xDFF1 (startBytes [(15, 2)] 0x300 [0x80])) = some (true, 0) := by decide

/-! ## Keys and timers -/

/-- K1. -/
theorem test_skp : after (fun t => t.pc) (one 0 0xE59E ((start [(5, 0xA)] 0).setKey (State.reset.key.set 10 true))) =
    some 0x204 := by decide
/-- K5. -/
theorem test_skp_no_key : after (fun t => t.run) (one 0 0xE59E (start [(5, 0x10)] 0)) =
    some (.faulted (.outOfBoundsAccess (.key 0x10) 0x200 (some 0xE59E))) := by decide
/-- K3, K4. -/
theorem test_sknp : after (fun t => t.pc) (one 0 0xE5A1 (start [(5, 0xA)] 0)) = some 0x204 ∧
    after (fun t => t.pc) (one 0 0xE5A1 ((start [(5, 0xA)] 0).setKey (State.reset.key.set 10 true))) =
      some 0x202 := by decide
/-- K7. -/
theorem test_ld_from_dt : after (fun t => t.v.get 3) (one 0 0xF307 (State.reset.setDt 0x3C)) = some 0x3C := by decide
/-- K8. -/
theorem test_ld_dt : after (fun t => t.dt) (one 0 0xF315 (start [(3, 5)] 0)) = some 5 := by decide
/-- K9. -/
theorem test_ld_st : after (fun t => t.st) (one 0 0xF318 (start [(3, 2)] 0)) = some 2 := by decide
/-- K10. -/
theorem test_wait : after (fun t => (t.run, t.pc))
    (one 0 0xF20A (State.reset.setKey (State.reset.key.set 7 true))) = some (.waiting 2, 0x200) := by decide
/-- K13. -/
theorem test_wait_ends : after (fun t => (t.v.get 2, t.pc, t.run))
    (keyUpdate (.single 7 true) 0 (State.reset.setRun (.waiting 2))) = some (7, 0x202, .running) := by decide
/-- K17, the last two ticks: the tone is read before the decrement. -/
theorem test_tick : tickTone (State.reset.setSt 1) = true ∧ (tick (State.reset.setSt 1)).st = 0 ∧
    tickTone (tick (State.reset.setSt 1)) = false ∧ (tick (State.reset.setSt 0)).st = 0 := by decide

/-! ## Load -/

/-- W10: a ROM that does not fit, a Step, an empty ROM, a Step: no Step runs until a Load succeeds (R382). -/
theorem test_load_fails_then_loads :
    (transactAll [.load (Vector.replicate 80 0) (List.replicate 3585 0), .step 0, .load (Vector.replicate 80 0) [],
      .step 0] (.present State.reset)).2 =
    [.failed (.loadError 3585), .refused .noVmState, .ok, .stepped (.fault (.decodeError 0x0000 0x200))] := by
  have h : transact (.load (Vector.replicate 80 0) (List.replicate 3585 0)) State.reset = .fault (.loadError 3585) := by
    simp only [transact, load, List.length_replicate]; rfl
  simp only [transactAll, transactVm, h, settle_fault]
  decide

/-! ## Engine -/

/-- E1. -/
theorem test_last_fetch : after (fun t => (t.v.get 0, t.pc)) (one 0 0x6001 (State.reset.setPc 0xFFE)) =
    some (1, 0x1000) := by decide
/-- E2. -/
theorem test_fetch_outside : after (fun t => (t.run, t.opcode)) (stepRand 0 (State.reset.setPc 0xFFF)) =
    some (.faulted (.outOfBoundsAccess (.addr 0xFFF) 0xFFF none), 0) := by decide
/-- W10, X1: the first Step after Load of an empty ROM. -/
theorem test_first_step_of_reset : after (fun t => (t.run, t.opcode, t.pc)) (stepRand 0 State.reset) =
    some (.faulted (.decodeError 0x0000 0x200), 0x0000, 0x200) := by decide
/-- E7. -/
theorem test_skip_policy : after (fun t => (t.run, t.pc, stepResult State.reset t))
    (one 0 0x5121 (State.mk State.reset.v 0 0x200 [] [] State.reset.disp false State.reset.key 0 0 0 .running .skip 0 0)) =
    some (.running, 0x202, .decodeSkipped 0x5121 0x200) := by decide
/-- A Step on the word placed where the next instruction is fetched, in the host's form. -/
theorem test_with_fetch_word : after (fun t => t.v.get 10) (step (State.reset.withFetchWord 16 0x6A5C)) =
    some 0x5C := by decide

/-! ## For each obligation with hypotheses, a state and operands that meet them, each clause at a limit of its range -/

/-- A running state whose PC is at the word `w`. -/
def placed (w : Nat) (s : State) : State := s.withFetchWord 16 w

theorem test_hyp_DecodeOfEncode : (Instr.jpAddr 0xFFF).wf = true ∧ (Instr.drwVxVyNibble 15 15 15).wf = true := by decide
theorem test_hyp_EncodeOfDecode : decodeWord 0xDFFF = .ok (.drwVxVyNibble 15 15 15) := by decide
theorem test_hyp_DecoderFollowsTheOpcodeMap :
    decodeWord 0xFF65 = .ok (.ldVxMem 15) ∧ (Instr.ldVxMem 15).row ∈ opcodeMap ∧
    0xFF65#16 &&& (Instr.ldVxMem 15).row.mask = (Instr.ldVxMem 15).row.value := by decide
theorem test_hyp_other_register : (0 : RegIdx) ≠ 15 ∧ (1 : RegIdx) ≠ 0 ∧ (14 : RegIdx) ≠ 15 := by decide
theorem test_hyp_RandomByte :
    (placed 0xCFFF (State.reset.setPc 4094)).run = .running ∧ (placed 0xCFFF (State.reset.setPc 4094)).pc.toNat = 4094 ∧
    decodeWord ((placed 0xCFFF (State.reset.setPc 4094)).mem.read 4094 ++
      (placed 0xCFFF (State.reset.setPc 4094)).mem.read 4095) = .ok (.rndVxByte 15 0xFF) := by decide
theorem test_hyp_ReturnPops : (State.reset.setStack [0xFFFF]).stack = [0xFFFF] ∧ State.reset.stack = [] := by decide
theorem test_hyp_CallPushes : (State.reset.setStack (List.replicate 15 0)).stack.length = 15 ∧
    (State.reset.setStack (List.replicate 16 0)).stack.length = 16 := by decide
theorem test_hyp_ReturnUndoesCall : ∃ t, State.reset.stack.length < 16 ∧ exec (.callAddr 0x208) State.reset = .next t ∧
    (t.setI 7).stack = t.stack := ⟨_, by decide, rfl, rfl⟩
theorem test_hyp_EachInstructionSetsPc : ∃ t, State.reset.run = .running ∧ exec .cls State.reset = .next t ∧
    t.isFaulted = false := ⟨_, by decide, rfl, by decide⟩
theorem test_hyp_EachInstructionSetsPc_wait : ∃ t, (State.reset.setRun (.waiting 15)).run = .waiting 15 ∧
    keyUpdate (.single 15 true) 0 (State.reset.setRun (.waiting 15)) = .next t ∧ t.run = .running :=
  ⟨_, by decide, rfl, by decide⟩
theorem test_hyp_Jump : State.reset.run = .running ∧ (0xFFF : Word) = 0xFFF := by decide
theorem test_hyp_OffsetJump : ∃ t, (0xFFF : Word).toNat ≤ 0xFFF ∧ State.reset.run = .running ∧
    exec (.jpV0Addr 0xFFF) State.reset = .next t ∧ t.pc.toNat > 4094 := ⟨_, by decide, by decide, rfl, by decide⟩
theorem test_hyp_DecimalDigits : (start [] 0xFFD).mem.wf = true ∧ (start [] 0xFFD).i.toNat + 2 ≤ 0xFFF ∧
    (start [] 0xFFE).i.toNat + 2 > 0xFFF := by decide
theorem test_hyp_RegistersStored : (start [] 0xFF0).mem.wf = true ∧ (start [] 0xFF0).i.toNat + (15 : RegIdx).val ≤ 0xFFF ∧
    (start [] 0xFF1).i.toNat + (15 : RegIdx).val > 0xFFF ∧ (0 : RegIdx).val ≤ (15 : RegIdx).val := by decide
theorem test_hyp_RegistersLoaded : (start [] 0xFFF).i.toNat + (0 : RegIdx).val ≤ 0xFFF ∧
    (start [] 0x1000).i.toNat + (0 : RegIdx).val > 0xFFF ∧ (0 : RegIdx).val < (1 : RegIdx).val := by decide
theorem test_hyp_StoreThenLoad : ∃ t, (start [] 0xFF0).mem.wf = true ∧
    (start [] 0xFF0).i.toNat + (15 : RegIdx).val ≤ 0xFFF ∧ exec (.ldMemVx 15) (start [] 0xFF0) = .next t ∧
    (t.setV 0 9).mem = t.mem ∧ (t.setV 0 9).i = (start [] 0xFF0).i :=
  ⟨_, by decide, by decide, rfl, rfl, by decide⟩
theorem test_hyp_StoredBytesAreFetched : ∃ t, (start [] 0xFF0).mem.wf = true ∧
    (start [] 0xFF0).i.toNat + (15 : RegIdx).val ≤ 0xFFF ∧ exec (.ldMemVx 15) (start [] 0xFF0) = .next t ∧
    (14 : RegIdx).val < (15 : RegIdx).val := ⟨_, by decide, by decide, rfl, by decide⟩
theorem test_hyp_ReadReturnsTheLastWrite : Memory.wf [(4095, 1)] = true ∧ 4095 < 4096 := by decide
theorem test_hyp_Fetch : 4094 ≤ 4094 ∧ 4095 > 4094 ∧ (State.reset.setPc 4095).run = .running ∧
    (State.reset.setPc 4095).pc.toNat > 4094 := by decide
theorem test_hyp_Draw : 15 ≤ 15 ∧ (start [] 0xFF1).i.toNat + 15 - 1 ≤ 0xFFF ∧ 0 < 15 ∧
    (start [] 0xFF2).i.toNat + 15 - 1 > 0xFFF := by decide
theorem test_hyp_DrawingTwice : ∃ t, exec (.drwVxVyNibble 0 1 1) (startBytes [(0, 63), (1, 31)] 0x300 [0xFF]) = .next t ∧
    (start [] 0x300).i.toNat + 1 - 1 ≤ 0xFFF ∧ t.v.get 0 = 63 ∧ t.v.get 1 = 31 ∧
    (∀ cx cy, ((start [] 0x300).disp.get cx).get cy = false) :=
  ⟨_, rfl, by decide, by decide, by decide, cell_blank⟩
theorem test_hyp_KeySkips : ((start [(5, 15)] 0).v.get 5).toNat = (15 : Fin 16).val ∧
    ((start [(5, 16)] 0).v.get 5).toNat > 15 := by decide
theorem test_hyp_WaitForKey : exec (.ldVxK 15) State.reset = .next (State.reset.setRun (.waiting 15)) := rfl
theorem test_hyp_KeyUpdate : 16 > 15 ∧
    KeyChange.apply (.single 15 true) State.reset.key = .ok (State.reset.key.set 15 true) ∧
    (State.reset.setRun (.waiting 0)).run = .waiting 0 ∧
    State.reset.key.get 15 = false ∧ (State.reset.key.set 15 true).get 15 = true ∧
    (∀ x, State.reset.run ≠ .waiting x) ∧ (∀ j, State.reset.key.get j = false → State.reset.key.get j = false) := by decide
theorem test_hyp_EveryPress : (State.reset.setRun (.waiting 4)).run = .waiting 4 ∧
    (State.reset.setRun (.waiting 4)).key.get 9 = false ∧
    ((State.reset.key.set 2 true).set 9 true).get 9 = true := by decide
theorem test_hyp_StepExecutes : (placed 0x6A5C State.reset).run = .running ∧
    (placed 0x6A5C State.reset).pc.toNat ≤ 4094 ∧
    decodeWord ((placed 0x6A5C State.reset).mem.read (placed 0x6A5C State.reset).pc.toNat ++
      (placed 0x6A5C State.reset).mem.read ((placed 0x6A5C State.reset).pc.toNat + 1)) = .ok (.ldVxByte 10 0x5C) := by decide
theorem test_hyp_IllegalWord : State.reset.run = .running ∧ State.reset.pc.toNat ≤ 4094 ∧
    decodeWord (State.reset.mem.read State.reset.pc.toNat ++ State.reset.mem.read (State.reset.pc.toNat + 1)) =
      .error (.zeroFamily 0) ∧ State.reset.decodeErrorPolicy = .fatal ∧
    ({ State.reset with decodeErrorPolicy := .skip } : State).decodeErrorPolicy = .skip := by decide
theorem test_hyp_Suspended : (State.reset.setRun (.waiting 3)).run = .waiting 3 ∧
    (State.reset.setRun (.faulted (.stackUnderflow 0x00EE 0x200))).run =
      .faulted (.stackUnderflow 0x00EE 0x200) := by decide
theorem test_hyp_OpcodeLatches : ∃ t u, stepRand 0 (State.reset.setPc 4094) = .next t ∧
    (State.reset.setPc 4094).pc.toNat ≤ 4094 ∧ stepRand 0 (State.reset.setPc 4095) = .next u ∧
    (State.reset.setPc 4095).pc.toNat > 4094 := ⟨_, _, rfl, by decide, rfl, by decide⟩
theorem test_hyp_StepReports_executed : ∃ t, stepRand 0 (placed 0x6A5C State.reset) = .next t ∧ t.run = .running :=
  ⟨_, rfl, by decide⟩
theorem test_hyp_StepReports_waiting : ∃ t, stepRand 0 (placed 0xF20A State.reset) = .next t ∧ t.run = .waiting 2 :=
  ⟨_, rfl, by decide⟩
theorem test_hyp_StepReports_fault : ∃ t, stepRand 0 (placed 0x00EE State.reset) = .next t ∧
    t.run = .faulted (.stackUnderflow 0x00EE 0x200) := ⟨_, rfl, by decide⟩
theorem test_hyp_OnlyCxnnReadsRand : ∃ t, (∀ x nn, Instr.cls ≠ .rndVxByte x nn) ∧ exec .cls State.reset = .next t :=
  ⟨_, fun _ _ => nofun, rfl⟩
theorem test_hyp_Fault_ret : ∃ t, State.reset.run = .running ∧ exec .ret State.reset = .next t ∧
    t.run = .faulted (.stackUnderflow 0x00EE 0x200) := ⟨_, by decide, rfl, by decide⟩
theorem test_hyp_Fault_call : ∃ t, exec (.callAddr 0) (State.reset.setStack (List.replicate 16 0)) = .next t ∧
    t.run = .faulted (.stackOverflow 0 0x200) := ⟨_, rfl, by decide⟩
theorem test_hyp_Fault_span : ∃ t u, exec (.ldBVx 0) (start [] 0xFFE) = .next t ∧ exec (.ldVxMem 1) (start [] 0xFFF) = .next u ∧
    t.run = .faulted (.outOfBoundsAccess (.addr 0x1000) 0x200 (some 0)) ∧
    u.run = .faulted (.outOfBoundsAccess (.addr 0x1000) 0x200 (some 0)) := ⟨_, _, rfl, rfl, by decide, by decide⟩
theorem test_hyp_Fault_draw : ∃ t, exec (.drwVxVyNibble 0 0 2) (start [] 0xFFF) = .next t ∧
    t.run = .faulted (.outOfBoundsAccess (.addr 0x1000) 0x200 (some 0)) := ⟨_, rfl, by decide⟩
theorem test_hyp_Fault_key : ∃ t, exec (.skpVx 5) (start [(5, 16)] 0) = .next t ∧
    t.run = .faulted (.outOfBoundsAccess (.key 16) 0x200 (some 0)) := ⟨_, rfl, by decide⟩
theorem test_hyp_OnlyLoadLeavesFaulted : ∃ p q,
    transact .tick (State.reset.setRun (.faulted (.stackUnderflow 0x00EE 0x200))) = .next p ∧
    transact (.load (Vector.replicate 80 0) []) (State.reset.setRun (.faulted (.stackUnderflow 0x00EE 0x200))) = .next q :=
  ⟨_, _, rfl, rfl⟩
theorem test_hyp_OnlyStoresWriteMemory : ∃ t, (∀ x, Instr.cls ≠ .ldBVx x ∧ Instr.cls ≠ .ldMemVx x) ∧
    exec .cls State.reset = .next t := ⟨_, fun _ => ⟨nofun, nofun⟩, rfl⟩
theorem test_hyp_RegistersChange : ∃ t, exec (.ldVxByte 3 7) State.reset = .next t ∧ t.v.get 3 ≠ State.reset.v.get 3 :=
  ⟨_, rfl, by decide⟩
theorem test_hyp_EachFieldHasItsWriters : ∃ t, exec .ret (State.reset.setStack [0x200]) = .next t ∧
    (∀ nnn x, Instr.ret ≠ .ldIAddr nnn ∧ Instr.ret ≠ .addIVx x ∧ Instr.ret ≠ .ldFVx x) ∧
    (∀ x y n, Instr.ret ≠ .cls ∧ Instr.ret ≠ .drwVxVyNibble x y n) ∧
    (∀ x, Instr.ret ≠ .ldDtVx x) ∧ (∀ x, Instr.ret ≠ .ldStVx x) ∧
    (∀ nnn, Instr.cls ≠ .callAddr nnn ∧ Instr.cls ≠ .ret) ∧ (State.reset.setRedraw true).redraw = true :=
  ⟨_, rfl, fun _ _ => ⟨nofun, nofun, nofun⟩, fun _ _ _ => ⟨nofun, nofun⟩, fun _ => nofun, fun _ => nofun,
    fun _ => ⟨nofun, nofun⟩, rfl⟩
theorem test_hyp_NoInstructionReadsRedrawOrSt : ∃ t, exec (.ldStVx 1) State.reset = .next t := ⟨_, rfl⟩
theorem test_hyp_LoadBuilds : 0x200 + (List.replicate 3584 (0xAA : Byte)).length ≤ 4096 := by rw [List.length_replicate]
theorem test_hyp_LoadAtItsLimits : (List.replicate 3585 (0xAA : Byte)).length ≥ 3585 ∧
    (Vector.mk defaultFont.toArray (by decide) : Vector Byte 80).toList = defaultFont := ⟨by rw [List.length_replicate], by decide⟩
theorem test_hyp_StepKeepsTheInvariant : StateInv (placed 0x6A5C State.reset) ∧
    ∃ t, step (placed 0x6A5C State.reset) = .next t :=
  ⟨⟨by decide, by decide, fun _ h => (nomatch h), fun _ h => (nomatch h)⟩, _, rfl⟩
theorem test_hyp_Reachable : Reachable State.reset ∧ ∃ p, transact .displayAck State.reset = .next p :=
  ⟨ReachableVm.reset, _, rfl⟩
theorem test_hyp_LoadAtItsLimits_absent : (∀ font rom, Transaction.step 0 ≠ .load font rom) ∧
    0x200 + (List.replicate 3584 (0xAA : Byte)).length ≤ 4096 :=
  ⟨fun _ _ => nofun, by rw [List.length_replicate]⟩

end Sys2Proof.Tests
end

section
/-! PROOFS. The fetch and its bounds (20_memory.md). -/

namespace Sys2Proof.Machine

/-! ## The value of a fetched word -/

/-- The byte at the lower address is the high one (R78). -/
theorem append_toNat (hi lo : Byte) : (hi ++ lo : Word).toNat = 256 * hi.toNat + lo.toNat := by
  rw [BitVec.toNat_append, ← Nat.shiftLeft_add_eq_or_of_lt lo.isLt, Nat.shiftLeft_eq, Nat.mul_comm]

/-! ## The Step of a running core -/

theorem stepRand_running {s : State} (r : Byte) (h : s.run = .running) : stepRand r s = cycle (s.takeRand r) := by
  simp only [stepRand, h]

/-- A running core whose PC leaves no room for two bytes takes the fault of the fetch, before any opcode is known. -/
theorem stepRand_fetch_outside {s : State} (r : Byte) (hrun : s.run = .running) (hpc : s.pc.toNat > 4094) :
    stepRand r s =
      .next ((s.takeRand r).setRun (.faulted (.outOfBoundsAccess (.addr s.pc.toNat) s.pc none))) := by
  rw [stepRand_running r hrun]
  obtain ⟨_, hfault⟩ | ⟨hinside, _⟩ := cycle_cases (s.takeRand r)
  · simpa only [State.takeRand_pc] using hfault
  · rw [State.takeRand_pc] at hinside
    omega

/-- Settles O30: inside memory the word is its two bytes joined, above 4094 the fetch answers none, and the cycle turns
that into the fault. -/
theorem fetchIsBigEndianAndBounded : Obligations.FetchIsBigEndianAndBounded := by
  unfold Obligations.FetchIsBigEndianAndBounded
  refine ⟨fun m a ha => ?_, fun m a ha => fetchAt_outside ha, fun s r hrun hpc => ?_⟩
  · exact ⟨m.read a ++ m.read (a + 1), fetchAt_inside ha, append_toNat _ _⟩
  · exact ⟨_, stepRand_fetch_outside r hrun hpc, State.setRun_run _ _⟩

end Sys2Proof.Machine
end

section
/-! PROOFS. Return and the jumps (41_control_flow.md). -/

namespace Sys2Proof.Machine

/-! ## The instructions' meanings -/

theorem exec_ret_of_stack_nil {s : State} (h : s.stack = []) :
    exec .ret s = .next (s.setRun (.faulted (.stackUnderflow 0x00EE s.pc))) := by
  simp only [exec, execRet, h, raise]

theorem exec_ret_of_stack_cons {s : State} {a : Word} {rest : List Word} (h : s.stack = a :: rest) :
    exec .ret s = .next ((s.setStack rest).setPc (a + 2)) := by
  simp only [exec, execRet, h]

theorem exec_jpAddr (nnn : Word) (s : State) : exec (.jpAddr nnn) s = .next (s.setPc nnn) := rfl

theorem exec_jpV0Addr (nnn : Word) (s : State) : exec (.jpV0Addr nnn) s = .next (s.setPc (s.jumpTarget nnn)) := rfl

/-! ## The jump targets -/

theorem jumpTarget_toNat (s : State) (nnn : Word) :
    (s.jumpTarget nnn).toNat = ((s.v.get 0).toNat + nnn.toNat) % 65536 := by
  have hv0 := (s.v.get 0).isLt
  simp only [State.jumpTarget, State.getV, BitVec.toNat_add, BitVec.toNat_setWidth]
  omega

/-- A well-formed operand never makes the sum wrap: a byte and a 12-bit address are at most 0xFF + 0xFFF. -/
theorem jumpTarget_toNat_of_wf (s : State) {nnn : Word} (h : nnn.toNat ≤ 0xFFF) :
    (s.jumpTarget nnn).toNat = (s.v.get 0).toNat + nnn.toNat ∧ (s.jumpTarget nnn).toNat ≤ 0x10FE := by
  have hv0 := (s.v.get 0).isLt
  have hsum := jumpTarget_toNat s nnn
  omega

/-- A running core sent to a target without room for two bytes faults at the next fetch, with the target as the bad
address and as PC. -/
theorem stepRand_setPc_outside {s : State} {target : Word} (r : Byte) (hrun : s.run = .running)
    (htarget : target.toNat > 4094) :
    ∃ u, stepRand r (s.setPc target) = .next u ∧
      u.run = .faulted (.outOfBoundsAccess (.addr target.toNat) target none) :=
  ⟨_, stepRand_fetch_outside (s := s.setPc target) r hrun htarget, State.setRun_run _ _⟩

/-! ## The obligations -/

/-- Settles O19: only PC changes, to the sum mod 65536, which a well-formed NNN keeps exact; a target above 4094 is a
fetch outside memory. -/
theorem offsetJumpAddsV0 : Obligations.OffsetJumpAddsV0 := by
  unfold Obligations.OffsetJumpAddsV0
  intro nnn s
  refine ⟨rfl, s.setPc (s.jumpTarget nnn), exec_jpV0Addr nnn s, rfl, ?sum, ?noWrap, ?fetchFault⟩
  case sum => exact jumpTarget_toNat s nnn
  case noWrap => exact jumpTarget_toNat_of_wf s
  case fetchFault => exact fun hrun htarget r => stepRand_setPc_outside r hrun htarget

/-- Settles O14, by the two cases of the stack. -/
theorem returnPopsAndAddsTwo : Obligations.ReturnPopsAndAddsTwo := by
  unfold Obligations.ReturnPopsAndAddsTwo
  exact ⟨rfl, fun _ _ _ h => exec_ret_of_stack_cons h, fun _ h => exec_ret_of_stack_nil h⟩

/-- Settles O15: only PC changes, and the target 0xFFF is a fetch outside memory. -/
theorem jumpSetsPc : Obligations.JumpSetsPc := by
  unfold Obligations.JumpSetsPc
  intro nnn s
  refine ⟨rfl, exec_jpAddr nnn s, ?_⟩
  rintro hrun rfl r
  exact stepRand_setPc_outside (target := 0xFFF) r hrun (by decide)

end Sys2Proof.Machine
end

section
/-! PROOFS. Register loads (42_register_alu.md). -/

namespace Sys2Proof

/-! ## The encoding of a two-register word without a sub-opcode -/

/-- Format XYS with sub-opcode 0: the last nibble adds nothing to the word (R102, R206). -/
theorem wordXYN_zero (m : Word) (x y : RegIdx) :
    wordXYN m x y 0 = m ||| (BitVec.ofNat 16 x.val <<< 8) ||| (BitVec.ofNat 16 y.val <<< 4) := by
  rw [wordXYN, BitVec.or_zero]

end Sys2Proof

namespace Sys2Proof.Machine

/-! ## The instructions' meanings -/

/-- Writing a result sets one register and PC, and is the whole next state (R201). -/
theorem writeResult_eq (x : RegIdx) (b : Byte) (s : State) :
    writeResult x b s = .next { s with v := s.v.set x.val b x.isLt, pc := s.pc + 2 } := rfl

theorem exec_ldVxByte (x : RegIdx) (nn : Byte) (s : State) : exec (.ldVxByte x nn) s = writeResult x nn s := rfl

theorem exec_ldVxVy (x y : RegIdx) (s : State) : exec (.ldVxVy x y) s = writeResult x (s.v.get y) s := rfl

/-! ## The obligations -/

/-- Settles O6: the word is format XNN at 0x6000, and the load is one written result, the operand NN. -/
theorem loadByteWritesTheRegister : Obligations.LoadByteWritesTheRegister := by
  unfold Obligations.LoadByteWritesTheRegister
  intro x nn s
  refine ⟨?encoding, ?nextState⟩
  case encoding => rfl
  case nextState => rw [exec_ldVxByte, writeResult_eq]

/-- Settles O8: the word is format XYS with sub-opcode 0 at 0x8000, and the copy is one written result, the old V[Y]. -/
theorem copyRegisterWritesTheRegister : Obligations.CopyRegisterWritesTheRegister := by
  unfold Obligations.CopyRegisterWritesTheRegister
  intro x y s
  refine ⟨?encoding, ?nextState⟩
  case encoding => exact wordXYN_zero 0x8000 x y
  case nextState => rw [exec_ldVxVy, writeResult_eq]

end Sys2Proof.Machine
end

section
/-! PROOFS. The index register (43_index_memory.md, R240 and R245). -/

namespace Sys2Proof

/-! ## The encoding of a one-register word with a sub-opcode -/

/-- Format XSS: the sub-opcode joins the constant part of the word, and the register keeps its own nibble (R102). -/
theorem wordXNN_eq_constant_or_x (m : Word) (x : RegIdx) (nn : Byte) :
    wordXNN m x nn = (m ||| nn.setWidth 16) ||| (BitVec.ofNat 16 x.val <<< 8) := by
  rw [wordXNN, BitVec.or_assoc, BitVec.or_comm (BitVec.ofNat 16 x.val <<< 8), ← BitVec.or_assoc]

end Sys2Proof

namespace Sys2Proof.Machine

/-! ## The instructions' meanings -/

/-- Writing the index register sets I and PC, and is the whole next state (R240, R243, R245). -/
theorem writeIndex_eq (w : Word) (s : State) : writeIndex w s = .next { s with i := w, pc := s.pc + 2 } := rfl

theorem exec_ldIAddr (nnn : Word) (s : State) : exec (.ldIAddr nnn) s = writeIndex nnn s := rfl

theorem exec_ldFVx (x : RegIdx) (s : State) : exec (.ldFVx x) s = writeIndex (s.glyphAddr x) s := rfl

/-- Five times a byte is at most 1275, so the glyph address is the exact product and never wraps (R245). -/
theorem State.glyphAddr_toNat (s : State) (x : RegIdx) : (s.glyphAddr x).toNat = (s.v.get x).toNat * 5 := by
  have hbyte : (s.v.get x).toNat < 256 := (s.v.get x).isLt
  simp only [State.glyphAddr, State.getV, BitVec.toNat_mul, BitVec.toNat_setWidth, BitVec.reduceToNat]
  omega

/-! ## The obligations -/

/-- Settles O23: the sub-opcode 0x29 joins 0xF000, and the load is one index write, the exact product. -/
theorem glyphAddressIsFiveTimesVx : Obligations.GlyphAddressIsFiveTimesVx := by
  unfold Obligations.GlyphAddressIsFiveTimesVx
  intro x s
  refine ⟨?encoding, { s with i := s.glyphAddr x, pc := s.pc + 2 }, ?nextState, ?product, rfl⟩
  case encoding => exact wordXNN_eq_constant_or_x 0xF000 x 0x29
  case nextState => rw [exec_ldFVx, writeIndex_eq]
  case product => exact s.glyphAddr_toNat x

/-- Settles O21: the word is format NNN at 0xA000, and the load is one index write, the operand NNN. -/
theorem loadIndexWritesNNN : Obligations.LoadIndexWritesNNN := by
  unfold Obligations.LoadIndexWritesNNN
  intro nnn s
  refine ⟨?encoding, ?nextState⟩
  case encoding => rfl
  case nextState => rw [exec_ldIAddr, writeIndex_eq]

end Sys2Proof.Machine
end

section
/-! PROOFS. The display (44_display.md, R270). -/

namespace Sys2Proof.Machine

/-! ## The instruction's meaning -/

/-- Clearing sets DISP, REDRAW and PC, and is the whole next state (R270). -/
theorem exec_cls (s : State) :
    exec .cls s = .next { s with disp := Display.blank, redraw := true, pc := s.pc + 2 } := rfl

/-! ## The obligation -/

/-- Settles O31: the clear replaces the grid by the blank one, whose every cell is 0. -/
theorem clearZeroesEveryCell : Obligations.ClearZeroesEveryCell := by
  unfold Obligations.ClearZeroesEveryCell
  refine ⟨?encoding, fun s =>
    ⟨{ s with disp := Display.blank, redraw := true, pc := s.pc + 2 }, ?nextState, ?cells, rfl⟩⟩
  case encoding => rfl
  case nextState => exact exec_cls s
  case cells => exact cell_blank

end Sys2Proof.Machine
end

section
/-! PROOFS. The timer registers (45_input_timers.md, R304, R306, R308). The encodings are format XSS, a constant joined
with X shifted up by 8 (`wordXNN_eq_constant_or_x`); the load from DT is one `writeResult`, the other two write a timer. -/

namespace Sys2Proof.Machine

/-! ## The instructions' meanings -/

theorem exec_ldVxDt (x : RegIdx) (s : State) : exec (.ldVxDt x) s = writeResult x s.dt s := rfl

/-- Loading the delay timer sets DT and PC, and is the whole next state (R306). -/
theorem exec_ldDtVx (x : RegIdx) (s : State) :
    exec (.ldDtVx x) s = .next { s with dt := s.v.get x, pc := s.pc + 2 } := rfl

/-- Loading the sound timer sets ST and PC, and is the whole next state (R308). -/
theorem exec_ldStVx (x : RegIdx) (s : State) :
    exec (.ldStVx x) s = .next { s with st := s.v.get x, pc := s.pc + 2 } := rfl

/-! ## The obligation -/

/-- Settles O36: the sub-opcodes 0x07, 0x15 and 0x18 join 0xF000; the first instruction is one result write of DT, the
others one timer write of `V[X]`. -/
theorem timerRegistersMove : Obligations.TimerRegistersMove := by
  unfold Obligations.TimerRegistersMove
  intro x s
  refine ⟨?encodingLdVxDt, ?encodingLdDtVx, ?encodingLdStVx, ?readDelay, ?writeDelay, ?writeSound⟩
  case encodingLdVxDt => exact wordXNN_eq_constant_or_x 0xF000 x 0x07
  case encodingLdDtVx => exact wordXNN_eq_constant_or_x 0xF000 x 0x15
  case encodingLdStVx => exact wordXNN_eq_constant_or_x 0xF000 x 0x18
  case readDelay => rw [exec_ldVxDt, writeResult_eq]
  case writeDelay => exact exec_ldDtVx x s
  case writeSound => exact exec_ldStVx x s

end Sys2Proof.Machine
end

section
/-! PROOFS. The encoder and the decoder against each other and against the opcode map (30_encoding.md). A word is
taken apart by its fields: `decodeWord` reads the op nibble and then at most the low nibble or the low byte. -/

namespace Sys2Proof

/-! ## The fields of an encoded word -/

theorem fieldOp_wordNNN {m nnn : Word} (hm : m.toNat % 4096 = 0) (h : addrFits nnn = true) :
    fieldOp (wordNNN m nnn) = m.toNat / 4096 := by
  simp only [addrFits, decide_eq_true_eq] at h
  rw [fieldOp_eq, wordNNN_toNat (k := m.toNat / 4096) (by omega) (by omega)]
  omega

theorem fieldNNN_wordNNN {m nnn : Word} (hm : m.toNat % 4096 = 0) (h : addrFits nnn = true) :
    fieldNNN (wordNNN m nnn) = nnn := by
  simp only [addrFits, decide_eq_true_eq] at h
  apply BitVec.eq_of_toNat_eq
  rw [fieldNNN_eq, wordNNN_toNat (k := m.toNat / 4096) (by omega) (by omega)]
  omega

theorem fieldOp_wordXNN {m : Word} (hm : m.toNat % 4096 = 0) (x : RegIdx) (nn : Byte) :
    fieldOp (wordXNN m x nn) = m.toNat / 4096 := by
  have := nn.isLt
  rw [fieldOp_eq, wordXNN_toNat (k := m.toNat / 4096) (by omega)]
  omega

theorem fieldX_wordXNN {m : Word} (hm : m.toNat % 4096 = 0) (x : RegIdx) (nn : Byte) :
    fieldX (wordXNN m x nn) = x := by
  have := nn.isLt
  apply Fin.ext
  rw [fieldX_eq, wordXNN_toNat (k := m.toNat / 4096) (by omega)]
  omega

theorem fieldNN_wordXNN {m : Word} (hm : m.toNat % 4096 = 0) (x : RegIdx) (nn : Byte) :
    fieldNN (wordXNN m x nn) = nn := by
  have := nn.isLt
  apply BitVec.eq_of_toNat_eq
  rw [fieldNN_eq, wordXNN_toNat (k := m.toNat / 4096) (by omega)]
  omega

theorem fieldOp_wordXYN {m : Word} (hm : m.toNat % 4096 = 0) (x y : RegIdx) {n : Nat} (hn : n < 16) :
    fieldOp (wordXYN m x y n) = m.toNat / 4096 := by
  rw [fieldOp_eq, wordXYN_toNat (k := m.toNat / 4096) (by omega) x y hn]
  omega

theorem fieldX_wordXYN {m : Word} (hm : m.toNat % 4096 = 0) (x y : RegIdx) {n : Nat} (hn : n < 16) :
    fieldX (wordXYN m x y n) = x := by
  apply Fin.ext
  rw [fieldX_eq, wordXYN_toNat (k := m.toNat / 4096) (by omega) x y hn]
  omega

theorem fieldY_wordXYN {m : Word} (hm : m.toNat % 4096 = 0) (x y : RegIdx) {n : Nat} (hn : n < 16) :
    fieldY (wordXYN m x y n) = y := by
  apply Fin.ext
  rw [fieldY_eq, wordXYN_toNat (k := m.toNat / 4096) (by omega) x y hn]
  omega

theorem fieldN_wordXYN {m : Word} (hm : m.toNat % 4096 = 0) (x y : RegIdx) {n : Nat} (hn : n < 16) :
    fieldN (wordXYN m x y n) = n := by
  rw [fieldN_eq, wordXYN_toNat (k := m.toNat / 4096) (by omega) x y hn]
  omega

/-! ## A word is put together from its fields -/

theorem wordNNN_fields {w m : Word} (hm : m.toNat = 4096 * fieldOp w) : wordNNN m (fieldNNN w) = w := by
  apply BitVec.eq_of_toNat_eq
  rw [wordNNN_toNat hm (by rw [fieldNNN_eq]; omega), fieldOp_eq, fieldNNN_eq]
  omega

theorem wordXNN_fields {w m : Word} (hm : m.toNat = 4096 * fieldOp w) : wordXNN m (fieldX w) (fieldNN w) = w := by
  apply BitVec.eq_of_toNat_eq
  rw [wordXNN_toNat hm, fieldOp_eq, fieldX_eq, fieldNN_eq]
  omega

theorem wordXYN_fields {w m : Word} (hm : m.toNat = 4096 * fieldOp w) :
    wordXYN m (fieldX w) (fieldY w) (fieldN w) = w := by
  apply BitVec.eq_of_toNat_eq
  rw [wordXYN_toNat hm _ _ (by rw [fieldN_eq]; omega), fieldOp_eq, fieldX_eq, fieldY_eq, fieldN_eq]
  omega

/-- Formats XSS: the low byte is the sub-opcode. -/
theorem wordXNN_sub {w m : Word} {nn : Byte} (hm : m.toNat = 4096 * fieldOp w) (h : (fieldNN w).toNat = nn.toNat) :
    wordXNN m (fieldX w) nn = w := by
  rw [← BitVec.eq_of_toNat_eq h, wordXNN_fields hm]

/-- Formats XY0 and XYS: the low nibble is the sub-opcode. -/
theorem wordXYN_sub {w m : Word} {n : Nat} (hm : m.toNat = 4096 * fieldOp w) (h : fieldN w = n) :
    wordXYN m (fieldX w) (fieldY w) n = w := by
  rw [← h, wordXYN_fields hm]

theorem addrFits_fieldNNN (w : Word) : addrFits (fieldNNN w) = true := by
  simp only [addrFits, decide_eq_true_eq, fieldNNN_eq]
  omega

theorem heightFits_fieldN (w : Word) : heightFits (fieldN w) = true := by
  simp only [heightFits, decide_eq_true_eq, fieldN_eq]
  omega

/-! ## The two directions -/

/-- The decoder undoes the encoder: each format gives back the fields it was put together from. -/
theorem decodeWord_encode {i : Instr} (h : i.wf = true) : decodeWord (encode i) = .ok i := by
  cases i with
  | cls | ret => rfl
  | jpAddr nnn | callAddr nnn | ldIAddr nnn | jpV0Addr nnn =>
    simp [encode, decodeWord, fieldOp_wordNNN, fieldNNN_wordNNN, show addrFits nnn = true from h]
  | drwVxVyNibble x y n =>
    have hn : n < 16 := by simpa [Instr.wf, heightFits, Nat.lt_succ_iff] using h
    simp [encode, decodeWord, fieldOp_wordXYN, fieldX_wordXYN, fieldY_wordXYN, fieldN_wordXYN, hn]
  | seVxByte | sneVxByte | ldVxByte | addVxByte | rndVxByte =>
    simp [encode, decodeWord, fieldOp_wordXNN, fieldX_wordXNN, fieldNN_wordXNN]
  | skpVx | sknpVx =>
    simp [encode, decodeWord, decodeKey, fieldOp_wordXNN, fieldX_wordXNN, fieldNN_wordXNN]
  | ldVxDt | ldVxK | ldDtVx | ldStVx | addIVx | ldFVx | ldBVx | ldMemVx | ldVxMem =>
    simp [encode, decodeWord, decodeMisc, fieldOp_wordXNN, fieldX_wordXNN, fieldNN_wordXNN]
  | seVxVy | sneVxVy =>
    simp [encode, decodeWord, fieldOp_wordXYN, fieldX_wordXYN, fieldY_wordXYN, fieldN_wordXYN]
  | ldVxVy | orVxVy | andVxVy | xorVxVy | addVxVy | subVxVy | shrVxVy | subnVxVy | shlVxVy =>
    simp [encode, decodeWord, decodeAlu, fieldOp_wordXYN, fieldX_wordXYN, fieldY_wordXYN, fieldN_wordXYN]

/-- An instruction whose word is `w`, and which is well-formed. -/
def IsWordOf (w : Word) (i : Instr) : Prop := encode i = w ∧ i.wf = true

theorem isWordOf_of_decodeAlu {w : Word} {i : Instr} (hop : fieldOp w = 8) (h : decodeAlu w = .ok i) :
    IsWordOf w i := by
  unfold decodeAlu at h
  have hm : (0x8000 : Word).toNat = 4096 * fieldOp w := by rw [hop]; rfl
  split at h <;> cases h <;> exact ⟨wordXYN_sub hm ‹_›, rfl⟩

theorem isWordOf_of_decodeKey {w : Word} {i : Instr} (hop : fieldOp w = 14) (h : decodeKey w = .ok i) :
    IsWordOf w i := by
  unfold decodeKey at h
  have hm : (0xE000 : Word).toNat = 4096 * fieldOp w := by rw [hop]; rfl
  split at h <;> cases h <;> exact ⟨wordXNN_sub hm ‹_›, rfl⟩

theorem isWordOf_of_decodeMisc {w : Word} {i : Instr} (hop : fieldOp w = 15) (h : decodeMisc w = .ok i) :
    IsWordOf w i := by
  unfold decodeMisc at h
  have hm : (0xF000 : Word).toNat = 4096 * fieldOp w := by rw [hop]; rfl
  split at h <;> cases h <;> exact ⟨wordXNN_sub hm ‹_›, rfl⟩

theorem isWordOf_of_decodeZero {w : Word} {i : Instr} (h : decodeZero w = .ok i) : IsWordOf w i := by
  unfold decodeZero at h
  split at h <;> cases h <;> exact ⟨BitVec.eq_of_toNat_eq (Eq.symm ‹_›), rfl⟩

theorem fieldOp_lt (w : Word) : fieldOp w < 16 := by
  have := w.isLt
  rw [fieldOp_eq]
  omega

theorem isWordOf_of_decodeWord {w : Word} {i : Instr} (h : decodeWord w = .ok i) : IsWordOf w i := by
  have hlt := fieldOp_lt w
  unfold decodeWord at h
  split at h
  case h_1 => exact isWordOf_of_decodeZero h
  case h_9 hop => exact isWordOf_of_decodeAlu hop h
  case h_15 hop => exact isWordOf_of_decodeKey hop h
  case h_16 =>
    simp only [imp_false] at *
    exact isWordOf_of_decodeMisc (by omega) h
  case h_6 hop | h_10 hop =>
    split at h <;> cases h
    exact ⟨wordXYN_sub (by rw [hop]; rfl) ‹_›, rfl⟩
  case h_2 hop | h_3 hop | h_11 hop | h_12 hop =>
    cases h
    exact ⟨wordNNN_fields (by rw [hop]; rfl), addrFits_fieldNNN w⟩
  case h_4 hop | h_5 hop | h_7 hop | h_8 hop | h_13 hop =>
    cases h
    exact ⟨wordXNN_fields (by rw [hop]; rfl), rfl⟩
  case h_14 hop =>
    cases h
    exact ⟨wordXYN_fields (by rw [hop]; rfl), heightFits_fieldN w⟩

/-! ## The opcode map -/

theorem row_mem_opcodeMap (i : Instr) : i.row ∈ opcodeMap := by
  cases i <;> simp [opcodeMap, Instr.row]

open Laws.RowEncoding in
/-- Every well-formed instruction's word matches the instruction's row. -/
theorem row_hits_encode : ∀ i : Instr, Laws.RowEncoding.Statement i
  | .cls => cls
  | .ret => ret
  | .jpAddr nnn => jpAddr nnn
  | .callAddr nnn => callAddr nnn
  | .seVxByte x nn => seVxByte x nn
  | .sneVxByte x nn => sneVxByte x nn
  | .seVxVy x y => seVxVy x y
  | .ldVxByte x nn => ldVxByte x nn
  | .addVxByte x nn => addVxByte x nn
  | .ldVxVy x y => ldVxVy x y
  | .orVxVy x y => orVxVy x y
  | .andVxVy x y => andVxVy x y
  | .xorVxVy x y => xorVxVy x y
  | .addVxVy x y => addVxVy x y
  | .subVxVy x y => subVxVy x y
  | .shrVxVy x y => shrVxVy x y
  | .subnVxVy x y => subnVxVy x y
  | .shlVxVy x y => shlVxVy x y
  | .sneVxVy x y => sneVxVy x y
  | .ldIAddr nnn => ldIAddr nnn
  | .jpV0Addr nnn => jpV0Addr nnn
  | .rndVxByte x nn => rndVxByte x nn
  | .drwVxVyNibble x y n => drwVxVyNibble x y n
  | .skpVx x => skpVx x
  | .sknpVx x => sknpVx x
  | .ldVxDt x => ldVxDt x
  | .ldVxK x => ldVxK x
  | .ldDtVx x => ldDtVx x
  | .ldStVx x => ldStVx x
  | .addIVx x => addIVx x
  | .ldFVx x => ldFVx x
  | .ldBVx x => ldBVx x
  | .ldMemVx x => ldMemVx x
  | .ldVxMem x => ldVxMem x

theorem fieldOp_of_mask {w v : Word} (h : w &&& 0xF000 = v) : fieldOp w = v.toNat / 4096 := by
  rw [fieldOp_eq, ← h, mask_op_toNat]
  omega

theorem fields_of_mask_low {w v : Word} (h : w &&& 0xF00F = v) :
    fieldOp w = v.toNat / 4096 ∧ fieldN w = v.toNat % 16 := by
  rw [fieldOp_eq, fieldN_eq, ← h, mask_opLow_toNat]
  omega

theorem fields_of_mask_byte {w v : Word} (h : w &&& 0xF0FF = v) :
    fieldOp w = v.toNat / 4096 ∧ (fieldNN w).toNat = v.toNat % 256 := by
  rw [fieldOp_eq, fieldNN_eq, ← h, mask_opByte_toNat]
  omega

/-- A word that matches the row of an instruction decodes to an instruction of that row: the mask fixes the fields the
decoder branches on. -/
theorem decodeWord_of_row {w : Word} {i : Instr} (h : w &&& i.row.mask = i.row.value) :
    ∃ j, decodeWord w = .ok j ∧ j.row = i.row := by
  cases i with
  | cls | ret =>
    obtain rfl := (BitVec.and_allOnes (x := w)).symm.trans h
    exact ⟨_, rfl, rfl⟩
  | jpAddr | callAddr | ldIAddr | jpV0Addr | seVxByte | sneVxByte | ldVxByte | addVxByte | rndVxByte | drwVxVyNibble =>
    have hop := fieldOp_of_mask h
    simp [decodeWord, hop, Instr.row]
  | seVxVy | sneVxVy =>
    obtain ⟨hop, hn⟩ := fields_of_mask_low h
    simp [decodeWord, hop, hn, Instr.row]
  | ldVxVy | orVxVy | andVxVy | xorVxVy | addVxVy | subVxVy | shrVxVy | subnVxVy | shlVxVy =>
    obtain ⟨hop, hn⟩ := fields_of_mask_low h
    simp [decodeWord, decodeAlu, hop, hn, Instr.row]
  | skpVx | sknpVx =>
    obtain ⟨hop, hnn⟩ := fields_of_mask_byte h
    simp [decodeWord, decodeKey, hop, hnn, Instr.row]
  | ldVxDt | ldVxK | ldDtVx | ldStVx | addIVx | ldFVx | ldBVx | ldMemVx | ldVxMem =>
    obtain ⟨hop, hnn⟩ := fields_of_mask_byte h
    simp [decodeWord, decodeMisc, hop, hnn, Instr.row]

theorem exists_row_of_mem {r : OpcodeRow} (h : r ∈ opcodeMap) : ∃ i : Instr, i.row = r := by
  obtain ⟨i, _, hi⟩ := List.mem_map.mp h
  exact ⟨i, hi⟩

/-! ## The illegal words (R107) -/

theorem fieldN_lt (w : Word) : fieldN w < 16 := by
  rw [fieldN_eq]
  omega

theorem decodeZero_error_iff (w : Word) : (∃ e, decodeZero w = .error e) ↔ w ≠ 0x00E0 ∧ w ≠ 0x00EE := by
  simp only [ne_eq, ← BitVec.toNat_inj, BitVec.reduceToNat]
  unfold decodeZero
  split <;> simp_all

theorem decodeAlu_error_iff (w : Word) :
    (∃ e, decodeAlu w = .error e) ↔ fieldN w ∈ [0x8, 0x9, 0xA, 0xB, 0xC, 0xD, 0xF] := by
  have hlt := fieldN_lt w
  interval_cases hn : fieldN w <;> simp [decodeAlu, hn]

theorem decodeKey_error_iff (w : Word) :
    (∃ e, decodeKey w = .error e) ↔ (fieldNN w).toNat ∉ [0x9E, 0xA1] := by
  unfold decodeKey
  split <;> simp_all

theorem decodeMisc_error_iff (w : Word) :
    (∃ e, decodeMisc w = .error e) ↔
      (fieldNN w).toNat ∉ [0x07, 0x0A, 0x15, 0x18, 0x1E, 0x29, 0x33, 0x55, 0x65] := by
  unfold decodeMisc
  split <;> simp_all

/-- A word is illegal by the op nibble's family: two families fix the low nibble at 0, three have a decoder of their
own, the other families refuse nothing. -/
theorem decodeWord_error_iff (w : Word) :
    (∃ e, decodeWord w = .error e) ↔
      (fieldOp w = 0 ∧ ∃ e, decodeZero w = .error e) ∨ ((fieldOp w = 5 ∨ fieldOp w = 9) ∧ fieldN w ≠ 0) ∨
      (fieldOp w = 8 ∧ ∃ e, decodeAlu w = .error e) ∨ (fieldOp w = 0xE ∧ ∃ e, decodeKey w = .error e) ∨
      (fieldOp w = 0xF ∧ ∃ e, decodeMisc w = .error e) := by
  have hlt := fieldOp_lt w
  by_cases hn : fieldN w = 0 <;> interval_cases hop : fieldOp w <;> simp [decodeWord, hop, hn]

/-! ## The obligations -/

/-- Settles O2, by the formats: the fields of an encoded word are the operands. -/
theorem decodeOfEncodeIsTheInstruction : Obligations.DecodeOfEncodeIsTheInstruction := by
  unfold Obligations.DecodeOfEncodeIsTheInstruction
  exact fun _ h => decodeWord_encode h

/-- Settles O3, by the families of the decoder: a word is put together from the fields the decoder read. -/
theorem encodeOfDecodeIsTheWord : Obligations.EncodeOfDecodeIsTheWord := by
  unfold Obligations.EncodeOfDecodeIsTheWord
  exact fun _ _ h => isWordOf_of_decodeWord h

/-- Settles O4: a decoded instruction's word matches its row because it is the word the encoder gives (O3); a word that
matches a row decodes into it, so that it matches no other. -/
theorem decoderFollowsTheOpcodeMap : Obligations.DecoderFollowsTheOpcodeMap := by
  unfold Obligations.DecoderFollowsTheOpcodeMap
  refine ⟨fun w i h => ⟨row_mem_opcodeMap i, ?hits⟩, fun w r hr h => ?decodes, fun w r r' hr hr' h h' =>
    ?unique, rfl⟩
  case hits =>
    obtain ⟨rfl, hwf⟩ := isWordOf_of_decodeWord h
    exact beq_iff_eq.mp (row_hits_encode i hwf)
  case decodes =>
    obtain ⟨i, rfl⟩ := exists_row_of_mem hr
    exact decodeWord_of_row h
  case unique =>
    obtain ⟨i, rfl⟩ := exists_row_of_mem hr
    obtain ⟨i', rfl⟩ := exists_row_of_mem hr'
    obtain ⟨j, hj, hrow⟩ := decodeWord_of_row h
    obtain ⟨j', hj', hrow'⟩ := decodeWord_of_row h'
    obtain rfl : j = j' := Except.ok.inj (hj.symm.trans hj')
    exact hrow.symm.trans hrow'

/-- Settles O5: the illegal words of each family, its fields written as digits of the word. -/
theorem illegalWordsAreTheFiveGroups : Obligations.IllegalWordsAreTheFiveGroups := by
  unfold Obligations.IllegalWordsAreTheFiveGroups
  intro w
  have hzero : fieldOp w = 0 ↔ w.toNat < 0x1000 := by rw [fieldOp_eq]; omega
  rw [decodeWord_error_iff, hzero, decodeZero_error_iff, decodeAlu_error_iff, decodeKey_error_iff,
    decodeMisc_error_iff, fieldOp_eq, fieldN_eq, fieldNN_eq]

/-- Settles O1: the decoder run on fifteen words. -/
theorem writtenWordsDecode : Obligations.WrittenWordsDecode := by
  unfold Obligations.WrittenWordsDecode
  decide

end Sys2Proof
end

section
/-! PROOFS. What one instruction can do, said once: it either takes a fault and changes RUN alone, or makes its effect
and sets PC. What an instruction leaves alone (10_state.md section 11), its faults (60_exceptions.md) and the class of
its PC (R134) are read off these three parts. -/

namespace Sys2Proof.Machine

/-! ## The three parts of an instruction -/

/-- The fault of an access to `len` bytes from `I` on, if one is outside memory (R82). -/
def spanFault (len : Nat) (s : State) : Option Fault :=
  (lowestBad s.indexAddr len).map fun a => .outOfBoundsAccess (.addr a) s.pc (some s.opcode)

/-- The fault of a key skip on a register that names no key (R300, R302). -/
def keyFault (x : RegIdx) (s : State) : Option Fault :=
  if (s.v.get x).toNat > 15 then some (.outOfBoundsAccess (.key (s.v.get x)) s.pc (some s.opcode)) else none

/-- The fault an instruction takes in a state, if it takes one. -/
def faultOf (i : Instr) (s : State) : Option Fault :=
  match i with
  | .ret => if s.stack = [] then some (.stackUnderflow 0x00EE s.pc) else none
  | .callAddr _ => if s.stack.length ≥ 16 then some (.stackOverflow s.opcode s.pc) else none
  | .drwVxVyNibble _ _ n => spanFault n s
  | .ldBVx _ => spanFault 3 s
  | .ldMemVx x => spanFault (x.val + 1) s
  | .ldVxMem x => spanFault (x.val + 1) s
  | .skpVx x => keyFault x s
  | .sknpVx x => keyFault x s
  | _ => none

/-- PC after an instruction that takes no fault, by the classes of R134. -/
def nextPc (i : Instr) (s : State) : Word :=
  match i with
  | .seVxByte x nn => if s.v.get x = nn then s.pc + 4 else s.pc + 2
  | .sneVxByte x nn => if s.v.get x ≠ nn then s.pc + 4 else s.pc + 2
  | .seVxVy x y => if s.v.get x = s.v.get y then s.pc + 4 else s.pc + 2
  | .sneVxVy x y => if s.v.get x ≠ s.v.get y then s.pc + 4 else s.pc + 2
  | .skpVx x => if s.key.toList.getD (s.v.get x).toNat false = true then s.pc + 4 else s.pc + 2
  | .sknpVx x => if s.key.toList.getD (s.v.get x).toNat false = false then s.pc + 4 else s.pc + 2
  | .jpAddr nnn => nnn
  | .jpV0Addr nnn => (s.v.get 0).setWidth 16 + nnn
  | .callAddr nnn => nnn
  | .ret => s.stack.headD 0 + 2
  | .ldVxK _ => s.pc
  | _ => s.pc + 2

/-- The effect of an instruction that takes no fault, PC apart: the jumps and the skips have none. -/
def effect (i : Instr) (s : State) : State :=
  match i with
  | .cls => (s.setDisp Display.blank).setRedraw true
  | .ret => s.setStack s.stack.tail
  | .callAddr _ => s.push s.pc
  | .ldVxByte x nn => s.setV x nn
  | .addVxByte x nn => s.setV x (s.getV x + nn)
  | .ldVxVy x y => s.setV x (s.getV y)
  | .orVxVy x y => s.setV x (s.getV x ||| s.getV y)
  | .andVxVy x y => s.setV x (s.getV x &&& s.getV y)
  | .xorVxVy x y => s.setV x (s.getV x ^^^ s.getV y)
  | .addVxVy x y => s.setFlagged x (carryFlag (s.getV x) (s.getV y)) (s.getV x + s.getV y)
  | .subVxVy x y => s.setFlagged x (noBorrowFlag (s.getV x) (s.getV y)) (s.getV x - s.getV y)
  | .shrVxVy x _ => s.setFlagged x (shrFlag (s.getV x)) (s.getV x >>> 1)
  | .subnVxVy x y => s.setFlagged x (noBorrowFlag (s.getV y) (s.getV x)) (s.getV y - s.getV x)
  | .shlVxVy x _ => s.setFlagged x (shlFlag (s.getV x)) (s.getV x <<< 1)
  | .ldIAddr nnn => s.setI nnn
  | .rndVxByte x nn => s.setV x (s.rand &&& nn)
  | .drwVxVyNibble x y n =>
    ((s.setDisp (drawSprite x y n s).1).setV vF (flagByte (drawSprite x y n s).2)).setRedraw true
  | .ldVxDt x => s.setV x s.dt
  | .ldVxK x => s.setRun (.waiting x)
  | .ldDtVx x => s.setDt (s.getV x)
  | .ldStVx x => s.setSt (s.getV x)
  | .addIVx x => s.setI (s.indexPlus x)
  | .ldFVx x => s.setI (s.glyphAddr x)
  | .ldBVx x => s.setMem (s.mem.writeBytes s.indexAddr (bcdDigits (s.getV x)))
  | .ldMemVx x => s.setMem (s.mem.writeBytes s.indexAddr (s.regRange x))
  | .ldVxMem x => s.setVs (writeRegs s.v 0 (s.mem.readBytes s.indexAddr (x.val + 1)))
  | _ => s

/-- The state after an instruction: a fault changes RUN alone, else the effect is made and PC set. -/
def nextState (i : Instr) (s : State) : State :=
  (faultOf i s).elim ((effect i s).setPc (nextPc i s)) fun f => s.setRun (.faulted f)

/-! ## The model's instructions are made of these parts -/

theorem checkSpan_eq (len : Nat) (s done : State) :
    checkSpan s.indexAddr len s done = .next ((spanFault len s).elim done fun f => s.setRun (.faulted f)) := by
  unfold checkSpan spanFault
  cases lowestBad s.indexAddr len <;> rfl

theorem getD_key (s : State) (k : Fin 16) : s.key.toList.getD k.val false = s.key.get k :=
  List.getD_eq_getElem _ _ (by simp)

theorem skipOnKey_eq (x : RegIdx) (pressed : Bool) (s : State) :
    skipOnKey x pressed s = .next ((keyFault x s).elim
      (s.setPc (if s.key.toList.getD (s.v.get x).toNat false = pressed then s.pc + 4 else s.pc + 2))
      fun f => s.setRun (.faulted f)) := by
  unfold skipOnKey keyFault
  obtain ⟨hlt, hkey⟩ | ⟨hgt, hkey⟩ := keyOperand_cases s x
  · rw [hkey, ← State.getV, if_neg (by omega), getD_key s ⟨(s.getV x).toNat, hlt⟩]
    simp [State.skipIf]
  · rw [hkey, ← State.getV, if_pos hgt]
    rfl

/-- Every instruction answers the next state made of its three parts. -/
theorem exec_eq (i : Instr) (s : State) : exec i s = .next (nextState i s) := by
  cases i with
  | ret =>
    unfold nextState faultOf effect nextPc
    cases h : s.stack <;> simp [exec, execRet, h, raise]
  | callAddr nnn =>
    unfold nextState faultOf effect nextPc
    by_cases h : s.stack.length ≥ 16 <;> simp [exec, execCallAddr, h, raise]
  | skpVx x => exact skipOnKey_eq x true s
  | sknpVx x => exact skipOnKey_eq x false s
  | drwVxVyNibble x y n => exact checkSpan_eq n s _
  | ldBVx x => exact checkSpan_eq 3 s _
  | ldMemVx x =>
    show checkSpan s.indexAddr (s.regRange x).length s _ = _
    rw [length_regRange]
    exact checkSpan_eq (x.val + 1) s _
  | ldVxMem x => exact checkSpan_eq (x.val + 1) s _
  | seVxByte | sneVxByte | seVxVy | sneVxVy =>
    unfold nextState faultOf effect nextPc
    simp [exec, execSeVxByte, execSneVxByte, execSeVxVy, execSneVxVy, State.skipIf, State.getV]
  | _ => rfl

/-- What an instruction leads to: it faults and changes RUN alone, or it makes its effect and sets PC. -/
theorem exec_cases {i : Instr} {s t : State} (h : exec i s = .next t) :
    (∃ f, faultOf i s = some f ∧ t = s.setRun (.faulted f)) ∨
    (faultOf i s = none ∧ t = (effect i s).setPc (nextPc i s)) := by
  obtain rfl : nextState i s = t := Host.Outcome.next.inj ((exec_eq i s).symm.trans h)
  unfold nextState
  cases faultOf i s with
  | none => exact .inr ⟨rfl, rfl⟩
  | some f => exact .inl ⟨f, rfl, rfl⟩

end Sys2Proof.Machine
end

section
/-! PROOFS. What an instruction leaves alone (10_state.md), which faults it takes (60_exceptions.md) and how it sets PC
(R134), read off its effect, its fault and its next PC. -/

namespace Sys2Proof.Machine

/-! ## The fields an effect keeps -/

theorem effect_key (i : Instr) (s : State) : (effect i s).key = s.key := by cases i <;> rfl
theorem effect_opcode (i : Instr) (s : State) : (effect i s).opcode = s.opcode := by cases i <;> rfl
theorem effect_policy (i : Instr) (s : State) : (effect i s).decodeErrorPolicy = s.decodeErrorPolicy := by
  cases i <;> rfl
theorem effect_rand (i : Instr) (s : State) : (effect i s).rand = s.rand := by cases i <;> rfl
theorem effect_draws (i : Instr) (s : State) : (effect i s).draws = s.draws := by cases i <;> rfl

/-- Only FX0A changes RUN. -/
theorem effect_run (i : Instr) (s : State) :
    (∃ x, i = .ldVxK x ∧ (effect i s).run = .waiting x) ∨ (effect i s).run = s.run := by
  cases i with
  | ldVxK x => exact .inl ⟨x, rfl, rfl⟩
  | _ => exact .inr rfl

theorem effect_i {i : Instr} (h : ∀ nnn x, i ≠ .ldIAddr nnn ∧ i ≠ .addIVx x ∧ i ≠ .ldFVx x) (s : State) :
    (effect i s).i = s.i := by
  cases i with
  | ldIAddr nnn => exact absurd rfl (h nnn 0).1
  | addIVx x => exact absurd rfl (h 0 x).2.1
  | ldFVx x => exact absurd rfl (h 0 x).2.2
  | _ => rfl

theorem effect_stack {i : Instr} (h : ∀ nnn, i ≠ .callAddr nnn ∧ i ≠ .ret) (s : State) :
    (effect i s).stack = s.stack := by
  cases i with
  | callAddr nnn => exact absurd rfl (h nnn).1
  | ret => exact absurd rfl (h 0).2
  | _ => rfl

theorem effect_disp_redraw {i : Instr} (h : ∀ x y n, i ≠ .cls ∧ i ≠ .drwVxVyNibble x y n) (s : State) :
    (effect i s).disp = s.disp ∧ (effect i s).redraw = s.redraw := by
  cases i with
  | cls => exact absurd rfl (h 0 0 0).1
  | drwVxVyNibble x y n => exact absurd rfl (h x y n).2
  | _ => exact ⟨rfl, rfl⟩

theorem effect_redraw_of_redraw (i : Instr) {s : State} (h : s.redraw = true) : (effect i s).redraw = true := by
  cases i with
  | cls | drwVxVyNibble => rfl
  | _ => exact h

theorem effect_dt {i : Instr} (h : ∀ x, i ≠ .ldDtVx x) (s : State) : (effect i s).dt = s.dt := by
  cases i with
  | ldDtVx x => exact absurd rfl (h x)
  | _ => rfl

theorem effect_st {i : Instr} (h : ∀ x, i ≠ .ldStVx x) (s : State) : (effect i s).st = s.st := by
  cases i with
  | ldStVx x => exact absurd rfl (h x)
  | _ => rfl

theorem effect_mem {i : Instr} (h : ∀ x, i ≠ .ldBVx x ∧ i ≠ .ldMemVx x) (s : State) : (effect i s).mem = s.mem := by
  cases i with
  | ldBVx x => exact absurd rfl (h x).1
  | ldMemVx x => exact absurd rfl (h x).2
  | _ => rfl

/-! ## The registers an effect writes -/

theorem eq_of_getV_setV_ne {s : State} {x r : RegIdx} {b : Byte} (h : (s.setV x b).getV r ≠ s.getV r) : r = x := by
  by_contra hne
  exact h (by rw [getV_setV, if_neg hne])

theorem eq_of_getV_setFlagged_ne {s : State} {x r : RegIdx} {f b : Byte}
    (h : (s.setFlagged x f b).getV r ≠ s.getV r) : r = x ∨ r = vF := by
  by_contra hne
  rw [not_or] at hne
  exact h (by rw [State.setFlagged, getV_setV, if_neg hne.1, getV_setV, if_neg hne.2])

theorem le_of_getV_setVs_ne {s : State} {n : Nat} {r : RegIdx} {a : Nat}
    (h : (s.setVs (writeRegs s.v 0 (s.mem.readBytes a (n + 1)))).getV r ≠ s.getV r) : r.val ≤ n := by
  by_contra hgt
  refine h ?_
  rw [State.getV, State.setVs_v, get_writeRegs, dif_neg (by rw [Memory.length_readBytes]; omega), State.getV]

/-- The registers an instruction may write: its destination, vF for a flag instruction and DXYN, `V[0]..V[X]` for
FX65 (R34, R46). -/
def Writes (i : Instr) (r : RegIdx) : Prop :=
  match i with
  | .ldVxByte x _ | .addVxByte x _ | .ldVxVy x _ | .orVxVy x _ | .andVxVy x _ | .xorVxVy x _ | .rndVxByte x _
  | .ldVxDt x => r = x
  | .addVxVy x _ | .subVxVy x _ | .shrVxVy x _ | .subnVxVy x _ | .shlVxVy x _ => r = x ∨ r = 15
  | .drwVxVyNibble _ _ _ => r = 15
  | .ldVxMem x => r.val ≤ x.val
  | _ => False

theorem writes_of_getV_effect_ne {i : Instr} {s : State} {r : RegIdx} (h : (effect i s).getV r ≠ s.getV r) :
    Writes i r := by
  cases i with
  | ldVxByte | addVxByte | ldVxVy | orVxVy | andVxVy | xorVxVy | rndVxByte | ldVxDt => exact eq_of_getV_setV_ne h
  | addVxVy | subVxVy | shrVxVy | subnVxVy | shlVxVy => exact eq_of_getV_setFlagged_ne h
  | drwVxVyNibble => exact eq_of_getV_setV_ne (s := s.setDisp _) h
  | ldVxMem => exact le_of_getV_setVs_ne h
  | _ => exact absurd rfl h

/-! ## Fields no other part depends on -/

theorem faultOf_rand (i : Instr) (s : State) (r : Byte) : faultOf i { s with rand := r } = faultOf i s := by
  cases i <;> rfl

theorem nextPc_rand (i : Instr) (s : State) (r : Byte) : nextPc i { s with rand := r } = nextPc i s := by
  cases i <;> rfl

theorem effect_rand_congr {i : Instr} (h : ∀ x nn, i ≠ .rndVxByte x nn) (s : State) (r : Byte) :
    effect i { s with rand := r } = { effect i s with rand := r } := by
  cases i with
  | rndVxByte x nn => exact absurd rfl (h x nn)
  | _ => rfl

theorem faultOf_redraw_st (i : Instr) (s : State) (q : Bool) (b : Byte) :
    faultOf i { s with redraw := q, st := b } = faultOf i s := by
  cases i <;> rfl

theorem nextPc_redraw_st (i : Instr) (s : State) (q : Bool) (b : Byte) :
    nextPc i { s with redraw := q, st := b } = nextPc i s := by
  cases i <;> rfl

theorem effect_redraw_st_congr (i : Instr) (s : State) (q : Bool) (b : Byte) :
    effect i { s with redraw := q, st := b } =
      { effect i s with
        redraw := (effect i { s with redraw := q, st := b }).redraw
        st := (effect i { s with redraw := q, st := b }).st } := by
  cases i <;> rfl

/-! ## Faults and their causes -/

theorem spanFault_eq_some {len : Nat} {s : State} {f : Fault} (h : spanFault len s = some f) :
    0 < len ∧ s.i.toNat + len > 4096 ∧
      f = .outOfBoundsAccess (.addr (max s.i.toNat 0x1000)) s.pc (some s.opcode) := by
  obtain ⟨a, ha, rfl⟩ := Option.map_eq_some_iff.mp h
  obtain ⟨hlen, hout, rfl⟩ := lowestBad_eq_some.mp ha
  exact ⟨hlen, hout, rfl⟩

theorem keyFault_eq_some {x : RegIdx} {s : State} {f : Fault} (h : keyFault x s = some f) :
    (s.v.get x).toNat > 15 ∧ f = .outOfBoundsAccess (.key (s.v.get x)) s.pc (some s.opcode) := by
  unfold keyFault at h
  split at h <;> cases h
  exact ⟨‹_›, rfl⟩

/-- The causes of R340 with their recorded values. -/
def HasCause (i : Instr) (s : State) (f : Fault) : Prop :=
  (i = .ret ∧ s.stack = [] ∧ f = .stackUnderflow 0x00EE s.pc) ∨
  (∃ nnn, i = .callAddr nnn ∧ s.stack.length ≥ 16 ∧ f = .stackOverflow s.opcode s.pc) ∨
  (∃ a, a > 0xFFF ∧ f = .outOfBoundsAccess (.addr a) s.pc (some s.opcode) ∧
    ((∃ x, i = .ldBVx x ∧ s.i.toNat + 2 ≥ a) ∨
      (∃ x : RegIdx, (i = .ldMemVx x ∨ i = .ldVxMem x) ∧ s.i.toNat + x.val ≥ a) ∨
      (∃ x y n, i = .drwVxVyNibble x y n ∧ s.i.toNat + n > a))) ∨
  (∃ x, (i = .skpVx x ∨ i = .sknpVx x) ∧ (s.v.get x).toNat > 15 ∧
    f = .outOfBoundsAccess (.key (s.v.get x)) s.pc (some s.opcode))

theorem hasCause_of_faultOf {i : Instr} {s : State} {f : Fault} (h : faultOf i s = some f) : HasCause i s f := by
  cases i with
  | ret =>
    obtain ⟨hempty, ⟨⟩⟩ := Option.ite_none_right_eq_some.mp h
    exact .inl ⟨rfl, hempty, rfl⟩
  | callAddr nnn =>
    obtain ⟨hfull, ⟨⟩⟩ := Option.ite_none_right_eq_some.mp h
    exact .inr (.inl ⟨nnn, rfl, hfull, rfl⟩)
  | ldBVx x =>
    obtain ⟨_, hout, rfl⟩ := spanFault_eq_some h
    exact .inr (.inr (.inl ⟨_, by omega, rfl, .inl ⟨x, rfl, by omega⟩⟩))
  | ldMemVx x =>
    obtain ⟨_, hout, rfl⟩ := spanFault_eq_some h
    exact .inr (.inr (.inl ⟨_, by omega, rfl, .inr (.inl ⟨x, .inl rfl, by omega⟩)⟩))
  | ldVxMem x =>
    obtain ⟨_, hout, rfl⟩ := spanFault_eq_some h
    exact .inr (.inr (.inl ⟨_, by omega, rfl, .inr (.inl ⟨x, .inr rfl, by omega⟩)⟩))
  | drwVxVyNibble x y n =>
    obtain ⟨hlen, hout, rfl⟩ := spanFault_eq_some h
    exact .inr (.inr (.inl ⟨_, by omega, rfl, .inr (.inr ⟨x, y, n, rfl, by omega⟩)⟩))
  | skpVx x =>
    obtain ⟨hkey, rfl⟩ := keyFault_eq_some h
    exact .inr (.inr (.inr ⟨x, .inl rfl, hkey, rfl⟩))
  | sknpVx x =>
    obtain ⟨hkey, rfl⟩ := keyFault_eq_some h
    exact .inr (.inr (.inr ⟨x, .inr rfl, hkey, rfl⟩))
  | _ => exact nomatch h

/-- From a running state, RUN is faulted after an instruction exactly if it took that fault. -/
theorem faultOf_of_run {i : Instr} {s t : State} {f : Fault} (hrun : s.run = .running) (h : exec i s = .next t)
    (hf : t.run = .faulted f) : faultOf i s = some f ∧ t = s.setRun (.faulted f) := by
  obtain ⟨g, hg, rfl⟩ | ⟨_, rfl⟩ := exec_cases h
  · obtain rfl : g = f := RunState.faulted.inj hf
    exact ⟨hg, rfl⟩
  · rw [State.setPc_run] at hf
    obtain ⟨x, _, hx⟩ | hx := effect_run i s <;> rw [hf] at hx
    · cases hx
    · rw [hrun] at hx
      cases hx

/-! ## The obligations -/

/-- Settles O49: a faulted run is a fault the instruction took, and each such fault has its cause. -/
theorem eachFaultHasItsCause : Obligations.EachFaultHasItsCause := by
  unfold Obligations.EachFaultHasItsCause
  exact fun i s t f hrun h hf => hasCause_of_faultOf (faultOf_of_run hrun h hf).1

/-- Settles O48: an instruction that takes a fault makes no effect. -/
theorem faultChangesNothingButRun : Obligations.FaultChangesNothingButRun := by
  unfold Obligations.FaultChangesNothingButRun
  exact fun i s t f hrun h hf => (faultOf_of_run hrun h hf).2

/-- Settles O51: no effect but those of FX33 and FX55 writes memory. -/
theorem onlyStoresWriteMemory : Obligations.OnlyStoresWriteMemory := by
  unfold Obligations.OnlyStoresWriteMemory
  intro i s t hi h a
  obtain ⟨f, _, rfl⟩ | ⟨_, rfl⟩ := exec_cases h
  · rfl
  · rw [State.setPc_mem, effect_mem hi]

/-- Settles O52: a fault changes no register, an effect only those the instruction writes. -/
theorem registersChangeOnlyAsDestinations : Obligations.RegistersChangeOnlyAsDestinations := by
  unfold Obligations.RegistersChangeOnlyAsDestinations
  intro i s t r h hr
  obtain ⟨f, _, rfl⟩ | ⟨_, rfl⟩ := exec_cases h
  · exact absurd rfl hr
  · exact writes_of_getV_effect_ne hr

/-- Settles O53: a fault changes RUN alone, an effect the fields of its own instruction. -/
theorem eachFieldHasItsWriters : Obligations.EachFieldHasItsWriters := by
  unfold Obligations.EachFieldHasItsWriters
  intro i s t h
  obtain ⟨f, _, rfl⟩ | ⟨_, rfl⟩ := exec_cases h
  · simp
  · exact ⟨fun h => effect_i h s, fun h => effect_stack h s, fun h => effect_disp_redraw h s,
      effect_redraw_of_redraw i, fun h => effect_dt h s, fun h => effect_st h s, effect_key i s, effect_opcode i s,
      effect_policy i s, effect_rand i s, effect_draws i s⟩

/-- Settles O47: neither the fault, nor the next PC, nor an effect but that of CXNN depends on `rand`. -/
theorem onlyCxnnReadsRand : Obligations.OnlyCxnnReadsRand := by
  unfold Obligations.OnlyCxnnReadsRand
  intro i s t r hi h
  rw [exec_eq, nextState, faultOf_rand, nextPc_rand, effect_rand_congr hi]
  obtain ⟨f, hf, rfl⟩ | ⟨hf, rfl⟩ := exec_cases h <;> rw [hf] <;> rfl

/-- Settles O54: neither the fault, nor the next PC, nor any other field of the effect depends on REDRAW or ST. -/
theorem noInstructionReadsRedrawOrSt : Obligations.NoInstructionReadsRedrawOrSt := by
  unfold Obligations.NoInstructionReadsRedrawOrSt
  intro i s t q b h
  refine ⟨_, exec_eq _ _, ?_⟩
  rw [nextState, faultOf_redraw_st, nextPc_redraw_st]
  obtain ⟨f, hf, rfl⟩ | ⟨hf, rfl⟩ := exec_cases h <;> rw [hf]
  · rfl
  · exact congrArg (State.setPc · (nextPc i s)) (effect_redraw_st_congr i s q b)

end Sys2Proof.Machine
end

section
/-! PROOFS. The key skips, the wait for a key and the timers (45_input_timers.md), and the class of PC (R134), whose
last clause is the wait that ends. -/

namespace Sys2Proof.Machine

/-! ## The key skips -/

theorem skipOnKey_of_key {x : RegIdx} {s : State} {k : Fin 16} (h : (s.v.get x).toNat = k.val) (pressed : Bool) :
    skipOnKey x pressed s = .next { s with pc := if s.key.get k = pressed then s.pc + 4 else s.pc + 2 } := by
  rw [skipOnKey_eq, keyFault, if_neg (by omega), h, getD_key]
  rfl

theorem skipOnKey_of_no_key {x : RegIdx} {s : State} (h : (s.v.get x).toNat > 15) (pressed : Bool) :
    skipOnKey x pressed s = .next { s with
      run := .faulted (.outOfBoundsAccess (.key (s.v.get x)) s.pc (some s.opcode)) } := by
  rw [skipOnKey_eq, keyFault, if_pos h]
  rfl

/-! ## KeyUpdate -/

theorem keyUpdate_of_apply {u : KeyChange} {new : Vector Bool 16} (pick : Nat) {s : State}
    (h : u.apply s.key = .ok new) :
    keyUpdate u pick s = .next (deliverPresses (pressEvents s.key new) pick (s.setKey new)) := by
  simp only [keyUpdate, h]

/-- A draw among some press events takes one of them. -/
theorem exists_getElem?_pick {p : List RegIdx} (h : p ≠ []) (pick : Nat) : ∃ j ∈ p, p[pick % p.length]? = some j := by
  have hlt : pick % p.length < p.length := Nat.mod_lt _ (List.length_pos_iff.mpr h)
  exact ⟨p[pick % p.length], List.getElem_mem hlt, List.getElem?_eq_getElem hlt⟩

theorem deliverPresses_waiting {p : List RegIdx} {x j : RegIdx} {pick : Nat} {s : State} (hrun : s.run = .waiting x)
    (hj : p[pick % p.length]? = some j) : deliverPresses p pick s = completeWait x j s := by
  simp only [deliverPresses, hrun, hj]

theorem deliverPresses_nil (pick : Nat) (s : State) : deliverPresses [] pick s = s := by
  unfold deliverPresses
  cases s.run <;> rfl

theorem deliverPresses_of_not_waiting (p : List RegIdx) (pick : Nat) {s : State} (h : ∀ x, s.run ≠ .waiting x) :
    deliverPresses p pick s = s := by
  unfold deliverPresses
  split
  · exact absurd ‹_› (h _)
  · rfl

/-- Press events reach the core in one of two ways: one of them completes a wait, or the state stays. -/
theorem deliverPresses_cases (p : List RegIdx) (pick : Nat) (s : State) :
    (∃ x j, s.run = .waiting x ∧ j ∈ p ∧ deliverPresses p pick s = completeWait x j s) ∨
    deliverPresses p pick s = s := by
  by_cases hwait : ∃ x, s.run = .waiting x
  · obtain ⟨x, hx⟩ := hwait
    by_cases hp : p = []
    · exact .inr (hp ▸ deliverPresses_nil pick s)
    · obtain ⟨j, hj, hpick⟩ := exists_getElem?_pick hp pick
      exact .inl ⟨x, j, hx, hj, deliverPresses_waiting hx hpick⟩
  · exact .inr (deliverPresses_of_not_waiting p pick (not_exists.mp hwait))

/-- A KeyUpdate that answers a state replaces KEY, and completes a wait if there is one and a key was pressed. -/
theorem keyUpdate_cases {u : KeyChange} {pick : Nat} {s t : State} (h : keyUpdate u pick s = .next t) :
    ∃ new, (∃ x j, s.run = .waiting x ∧ t = completeWait x j (s.setKey new)) ∨ t = s.setKey new := by
  cases hu : u.apply s.key with
  | error e => simp only [keyUpdate, hu] at h; cases h
  | ok new =>
    rw [keyUpdate_of_apply pick hu] at h
    obtain rfl := Host.Outcome.next.inj h
    obtain ⟨x, j, hx, _, ht⟩ | ht := deliverPresses_cases (pressEvents s.key new) pick (s.setKey new)
    · exact ⟨new, .inl ⟨x, j, hx, ht⟩⟩
    · exact ⟨new, .inr ht⟩

/-! ## Ticks -/

theorem iterate_tick (n : Nat) (s : State) :
    Nat.iterate tick n s =
      { s with dt := Nat.iterate countDown n s.dt, st := Nat.iterate countDown n s.st } := by
  induction n generalizing s with
  | zero => rfl
  | succ n ih => exact ih (tick s)

theorem iterate_countDown_toNat (n : Nat) (b : Byte) : (Nat.iterate countDown n b).toNat = b.toNat - n := by
  induction n generalizing b with
  | zero => rfl
  | succ n ih =>
    rw [Function.iterate_succ_apply, ih, countDown_toNat]
    omega

theorem tickTone_iff (s : State) : tickTone s = true ↔ 0 < s.st.toNat := by
  rw [tickTone, bne_iff_ne, ne_eq, ← BitVec.toNat_inj, Nat.pos_iff_ne_zero]
  rfl

/-! ## The obligations -/

/-- Settles O35: both instructions are the one skip on a key, taken where the key is pressed or where it is not. -/
theorem keySkipsReadTheKeyVxNames : Obligations.KeySkipsReadTheKeyVxNames := by
  unfold Obligations.KeySkipsReadTheKeyVxNames
  exact fun x s => ⟨fun k hk => ⟨skipOnKey_of_key hk true, skipOnKey_of_key hk false⟩,
    fun h => ⟨skipOnKey_of_no_key h true, skipOnKey_of_no_key h false⟩⟩

/-- Settles O37: the instruction sets RUN, which the report is read from. -/
theorem waitForKeySuspends : Obligations.WaitForKeySuspends := by
  unfold Obligations.WaitForKeySuspends
  refine fun x s t => ⟨rfl, fun h => ?_⟩
  obtain rfl : s.setRun (.waiting x) = t := Host.Outcome.next.inj h
  rfl

/-- Settles O38: a press event among those of the change is drawn and ends the wait; without a wait or an event the
state but KEY stays. -/
theorem keyUpdateCompletesAWait : Obligations.KeyUpdateCompletesAWait := by
  unfold Obligations.KeyUpdateCompletesAWait
  refine ⟨fun k p pick s hk => ?refused, fun u new pick s hu => ⟨fun x hx hpress => ?completes, fun hnone => ?keeps⟩,
    fun k p old => dif_pos k.isLt, fun _ _ => rfl⟩
  case refused => simp [transact, withReply, keyUpdate, KeyChange.apply, Nat.not_lt.mpr hk]
  case completes =>
    obtain ⟨j, hj⟩ := hpress
    have hp : pressEvents s.key new ≠ [] := List.ne_nil_of_mem (mem_pressEvents.mpr hj)
    obtain ⟨k, hk, hpick⟩ := exists_getElem?_pick hp pick
    obtain ⟨hup, hdown⟩ := mem_pressEvents.mp hk
    refine ⟨completeWait x k (s.setKey new), k, ?_, hup, hdown, rfl⟩
    simp only [transact, keyUpdate_of_apply pick hu, withReply]
    rw [deliverPresses_waiting (s := s.setKey new) hx hpick]
  case keeps =>
    simp only [transact, keyUpdate_of_apply pick hu, withReply]
    obtain hwait | hup := hnone
    · rw [deliverPresses_of_not_waiting _ _ (s := s.setKey new) hwait]
      rfl
    · have hp : pressEvents s.key new = [] := List.eq_nil_iff_forall_not_mem.mpr fun j hj => by
        obtain ⟨hold, hnew⟩ := mem_pressEvents.mp hj
        rw [hup j hold] at hnew
        cases hnew
      rw [hp, deliverPresses_nil]
      rfl

/-- Settles O39: the draw is the event's place among the press events. -/
theorem everyPressMayCompleteAWait : Obligations.EveryPressMayCompleteAWait := by
  unfold Obligations.EveryPressMayCompleteAWait
  intro x j new s hx hold hnew
  obtain ⟨pick, hlt, hj⟩ := List.getElem_of_mem (mem_pressEvents.mpr ⟨hold, hnew⟩)
  have hpick : (pressEvents s.key new)[pick % (pressEvents s.key new).length]? = some j := by
    rw [Nat.mod_eq_of_lt hlt, List.getElem?_eq_getElem hlt, hj]
  refine ⟨pick, completeWait x j (s.setKey new), ?_, rfl, ?_⟩
  · rw [keyUpdate_of_apply pick (u := .bulk new) rfl, deliverPresses_waiting (s := s.setKey new) hx hpick]
  · have := j.isLt
    show ((completeWait x j (s.setKey new)).getV x).toNat = j.val
    rw [completeWait, getV_setRun, getV_advance, getV_setV, if_pos rfl, BitVec.toNat_ofNat]
    omega

/-- Settles O40: n ticks count each timer down n times. -/
theorem ticksCountDownAndSaturate : Obligations.TicksCountDownAndSaturate := by
  unfold Obligations.TicksCountDownAndSaturate
  intro n s
  simp only [tickTone_iff, iterate_tick, iterate_countDown_toNat]
  exact ⟨trivial, trivial, trivial, rfl, by omega⟩

/-- Settles O20: the class of an instruction is its next PC; a wait that ends was completed, which advances PC. -/
theorem eachInstructionSetsPcByItsClass : Obligations.EachInstructionSetsPcByItsClass := by
  unfold Obligations.EachInstructionSetsPcByItsClass
  refine ⟨fun i s t hrun h hf => ?executed, fun x u pick s t hwait h hrun => ?waitEnds⟩
  case executed =>
    obtain ⟨f, _, rfl⟩ | ⟨_, rfl⟩ := exec_cases h
    · cases hf
    · rfl
  case waitEnds =>
    obtain ⟨new, ⟨x, j, _, rfl⟩ | rfl⟩ := keyUpdate_cases h
    · rfl
    · rw [State.setKey_run, hwait] at hrun
      cases hrun

end Sys2Proof.Machine
end

section
/-! PROOFS. The Step transaction (40_engine_cycle.md): a running core latches the word at PC and runs what it decodes
to; a waiting or faulted core stays. -/

namespace Sys2Proof.Machine

/-! ## The fetched word and the state it is executed in -/

/-- The word at PC (R78). -/
def fetchedWord (s : State) : Word := s.mem.read s.pc.toNat ++ s.mem.read (s.pc.toNat + 1)

/-- The state a Step executes in: the `rand` input taken, the word at PC in OPCODE (R132, R142). -/
def latched (r : Byte) (s : State) : State := (s.takeRand r).setOpcode (fetchedWord s)

theorem stepRand_latched {s : State} (r : Byte) (hrun : s.run = .running) (hpc : s.pc.toNat ≤ 4094) :
    stepRand r s = decodeExecute (fetchedWord s) (latched r s) := by
  rw [stepRand_running r hrun, cycle, State.takeRand_mem, State.takeRand_pc, fetchAt_inside hpc]
  rfl

theorem stepRand_decoded {s : State} {i : Instr} (r : Byte) (hrun : s.run = .running) (hpc : s.pc.toNat ≤ 4094)
    (hi : decodeWord (fetchedWord s) = .ok i) : stepRand r s = exec i (latched r s) := by
  rw [stepRand_latched r hrun hpc, decodeExecute, hi]

theorem stepRand_illegal {s : State} {e : Reject} (r : Byte) (hrun : s.run = .running) (hpc : s.pc.toNat ≤ 4094)
    (he : decodeWord (fetchedWord s) = .error e) : stepRand r s = illegal (fetchedWord s) (latched r s) := by
  rw [stepRand_latched r hrun hpc, decodeExecute, he]

theorem stepRand_suspended {s : State} (r : Byte) (h : s.run ≠ .running) : stepRand r s = .next s := by
  unfold stepRand
  split
  · exact absurd ‹_› h
  · rfl
  · rfl

/-- A Step is one of four: nothing, a fetch out of bounds, an instruction, an illegal word. -/
theorem stepRand_cases (r : Byte) (s : State) :
    (s.run ≠ .running ∧ stepRand r s = .next s) ∨
    (s.run = .running ∧ s.pc.toNat > 4094 ∧ stepRand r s =
      .next ((s.takeRand r).setRun (.faulted (.outOfBoundsAccess (.addr s.pc.toNat) s.pc none)))) ∨
    (s.run = .running ∧ s.pc.toNat ≤ 4094 ∧ ∃ i, decodeWord (fetchedWord s) = .ok i ∧
      stepRand r s = exec i (latched r s)) ∨
    (s.run = .running ∧ s.pc.toNat ≤ 4094 ∧ ∃ e, decodeWord (fetchedWord s) = .error e ∧
      stepRand r s = illegal (fetchedWord s) (latched r s)) := by
  by_cases hrun : s.run = .running
  · by_cases hpc : s.pc.toNat ≤ 4094
    · cases hd : decodeWord (fetchedWord s) with
      | ok i => exact .inr (.inr (.inl ⟨hrun, hpc, i, rfl, stepRand_decoded r hrun hpc hd⟩))
      | error e => exact .inr (.inr (.inr ⟨hrun, hpc, e, rfl, stepRand_illegal r hrun hpc hd⟩))
    · exact .inr (.inl ⟨hrun, by omega, stepRand_fetch_outside r hrun (by omega)⟩)
  · exact .inl ⟨hrun, stepRand_suspended r hrun⟩

/-! ## What a Step leaves in OPCODE and reports -/

theorem exec_opcode {i : Instr} {s t : State} (h : exec i s = .next t) : t.opcode = s.opcode := by
  obtain ⟨f, _, rfl⟩ | ⟨_, rfl⟩ := exec_cases h
  · rfl
  · exact effect_opcode i s

theorem illegal_opcode {w : Word} {s t : State} (h : illegal w s = .next t) : t.opcode = s.opcode := by
  obtain ⟨_, ht⟩ | ⟨_, ht⟩ := illegal_cases w s <;> obtain rfl := Host.Outcome.next.inj (ht.symm.trans h) <;> rfl

/-- From a running state only FX0A leads to a wait, for its own register. -/
theorem exec_waiting {i : Instr} {s t : State} {x : RegIdx} (hrun : s.run = .running) (h : exec i s = .next t)
    (hx : t.run = .waiting x) : i = .ldVxK x ∧ t = s.setRun (.waiting x) := by
  obtain ⟨f, _, rfl⟩ | ⟨_, rfl⟩ := exec_cases h
  · cases hx
  · rw [State.setPc_run] at hx
    obtain ⟨y, rfl, hy⟩ | hy := effect_run i s <;> rw [hx] at hy
    · cases hy
      exact ⟨rfl, rfl⟩
    · rw [hrun] at hy
      cases hy

/-! ## The obligations -/

/-- Settles O41: the latched state is the one the statement writes out. -/
theorem stepExecutesTheFetchedInstruction : Obligations.StepExecutesTheFetchedInstruction := by
  unfold Obligations.StepExecutesTheFetchedInstruction
  exact fun s i r hrun hpc hi => ⟨stepRand_decoded r hrun hpc hi, stepRand_decoded _ hrun hpc hi⟩

/-- Settles O43: neither a wait nor a fault is `running`. -/
theorem suspendedStepsChangeNothing : Obligations.SuspendedStepsChangeNothing := by
  unfold Obligations.SuspendedStepsChangeNothing
  refine fun s r => ⟨fun x hx => ?_, fun f hf => ?_⟩
  · have hstep (r : Byte) : stepRand r s = .next s := stepRand_suspended r (by rw [hx]; nofun)
    exact ⟨by simp only [transact, withReply, hstep, stepResult, hx], hstep _⟩
  · have hstep (r : Byte) : stepRand r s = .next s := stepRand_suspended r (by rw [hf]; nofun)
    exact ⟨by simp only [transact, withReply, hstep, stepResult, hf], hstep _⟩

/-- Settles O44: each of the four kinds of Step answers a state, as every instruction does. -/
theorem everyStepAnswersAState : Obligations.EveryStepAnswersAState := by
  unfold Obligations.EveryStepAnswersAState
  refine ⟨fun s r => ?_, fun i s => ⟨_, exec_eq i s⟩⟩
  obtain ⟨_, h⟩ | ⟨_, _, h⟩ | ⟨_, _, i, _, h⟩ | ⟨_, _, e, _, h⟩ := stepRand_cases r s
  · exact ⟨_, h⟩
  · exact ⟨_, h⟩
  · exact ⟨_, h.trans (exec_eq i _)⟩
  · obtain ⟨_, hi⟩ | ⟨_, hi⟩ := illegal_cases (fetchedWord s) (latched r s) <;> exact ⟨_, h.trans hi⟩

/-- Settles O42: the two cases of the policy, in the latched state. -/
theorem illegalWordFollowsThePolicy : Obligations.IllegalWordFollowsThePolicy := by
  unfold Obligations.IllegalWordFollowsThePolicy
  rintro s r w e hrun hpc rfl he
  have hstep := stepRand_illegal r hrun hpc he
  obtain ⟨hpolicy, hill⟩ | ⟨hpolicy, hill⟩ := illegal_cases (fetchedWord s) (latched r s) <;>
    rw [show (latched r s).decodeErrorPolicy = s.decodeErrorPolicy from rfl] at hpolicy <;> rw [hill] at hstep
  · refine ⟨fun _ => hstep, fun hskip => ?_⟩
    rw [hpolicy] at hskip
    cases hskip
  · refine ⟨fun hfatal => ?_, fun _ => ⟨_, hstep, ?_, rfl⟩⟩
    · rw [hpolicy] at hfatal
      cases hfatal
    · have hrun' : (latched r s).advance.run = .running := hrun
      have hopcode : decodeWord (latched r s).advance.opcode = .error e := he
      rw [stepResult, hrun', hopcode]
      rfl

/-- Settles O45: neither an instruction nor an illegal word writes the OPCODE the Step latched. -/
theorem opcodeLatchesTheFetchedWord : Obligations.OpcodeLatchesTheFetchedWord := by
  unfold Obligations.OpcodeLatchesTheFetchedWord
  intro s t r hrun h
  refine ⟨fun hpc => ?inside, fun hpc => ?outside⟩
  case inside =>
    show t.opcode = (latched r s).opcode
    cases hd : decodeWord (fetchedWord s) with
    | ok i => exact exec_opcode ((stepRand_decoded r hrun hpc hd).symm.trans h)
    | error e => exact illegal_opcode ((stepRand_illegal r hrun hpc hd).symm.trans h)
  case outside => exact Host.Outcome.next.inj (h.symm.trans (stepRand_fetch_outside r hrun hpc))

/-- Settles O46: the report is read from RUN and, where that is running, from the latched OPCODE, which decodes. -/
theorem stepReportsWhatHappened : Obligations.StepReportsWhatHappened := by
  unfold Obligations.StepReportsWhatHappened
  intro s t r i hrun hpc hi h
  have hexec : exec i (latched r s) = .next t := (stepRand_decoded r hrun hpc hi).symm.trans h
  refine ⟨fun ht => ?_, fun x ht => ⟨?_, (exec_waiting (s := latched r s) hrun hexec ht).1⟩, fun f ht => ?_⟩ <;>
    simp only [stepResult, ht]
  have hopcode : decodeWord t.opcode = .ok i := by rw [exec_opcode hexec]; exact hi
  rw [hopcode]

/-- Settles O13: the Step's input is in the `rand` field of the latched state. -/
theorem randomByteIsAndedWithNN : Obligations.RandomByteIsAndedWithNN := by
  unfold Obligations.RandomByteIsAndedWithNN
  refine fun x nn r s => ⟨rfl, fun hrun hpc hi => ⟨_, (stepRand_decoded r hrun hpc hi).trans (exec_eq _ _), ?_, rfl⟩⟩
  exact (getV_setV (latched r s) x x _).trans (if_pos rfl)

end Sys2Proof.Machine
end

section
/-! PROOFS. The invariant of every run (10_state.md sections 7 and 12, 60_exceptions.md section 2): reset meets it, an
instruction keeps it, so a Step does, so every transaction does, so every reachable state meets it. -/

namespace Sys2Proof.Machine

/-! ## What an instruction that takes no fault keeps of memory and stack -/

theorem spanFault_eq_none {len : Nat} {s : State} (h : spanFault len s = none) :
    len = 0 ∨ s.i.toNat + len ≤ 4096 :=
  lowestBad_eq_none.mp (Option.map_eq_none_iff.mp h)

/-- The stores are the two that write memory, and their bounds check keeps them inside it. -/
theorem effect_mem_wf {i : Instr} {s : State} (hf : faultOf i s = none) (h : s.mem.wf = true) :
    (effect i s).mem.wf = true := by
  cases i with
  | ldBVx x => exact Memory.wf_writeBytes ((spanFault_eq_none hf).resolve_left (by simp)) h
  | ldMemVx x =>
    refine Memory.wf_writeBytes ?_ h
    rw [length_regRange]
    exact (spanFault_eq_none hf).resolve_left (by simp)
  | _ => exact h

/-- A call pushes onto fewer than 16 entries, every other instruction leaves at most what was there (R40). -/
theorem effect_stack_length {i : Instr} {s : State} (hf : faultOf i s = none) (h : s.stack.length ≤ 16) :
    (effect i s).stack.length ≤ 16 := by
  cases i with
  | callAddr nnn =>
    have hfew : ¬ s.stack.length ≥ 16 := fun hfull => nomatch (if_pos hfull).symm.trans hf
    simp only [effect, State.push_stack, List.length_cons]
    omega
  | ret =>
    simp only [effect, State.setStack_stack, List.length_tail]
    omega
  | _ => exact h

/-! ## What a fault records -/

/-- Every fault of an instruction records PC and OPCODE; that of 00EE records its own word, which OPCODE holds. -/
theorem faultOf_records {i : Instr} {s : State} {f : Fault} (hi : decodeWord s.opcode = .ok i)
    (h : faultOf i s = some f) : f.pc? = some s.pc ∧ f.opcode? = some s.opcode := by
  obtain ⟨rfl, _, rfl⟩ | ⟨_, _, _, rfl⟩ | ⟨_, _, rfl, _⟩ | ⟨_, _, _, rfl⟩ := hasCause_of_faultOf h
  · exact ⟨rfl, congrArg some (isWordOf_of_decodeWord hi).1⟩
  · exact ⟨rfl, rfl⟩
  · exact ⟨rfl, rfl⟩
  · exact ⟨rfl, rfl⟩

/-! ## States made from one that meets the invariant -/

/-- Memory and stack are what the invariant asks of a running state. -/
theorem StateInv.of_running {s : State} (hmem : s.mem.wf = true) (hdepth : s.stack.length ≤ 16)
    (hrun : s.run = .running) : StateInv s :=
  ⟨hmem, hdepth, fun _ h => (nomatch hrun.symm.trans h), fun _ h => (nomatch hrun.symm.trans h)⟩

theorem StateInv.setRun_faulted {s : State} {f : Fault} (hmem : s.mem.wf = true) (hdepth : s.stack.length ≤ 16)
    (hpc : f.pc? = some s.pc) (hopcode : s.pc.toNat ≤ 4094 → f.opcode? = some s.opcode) :
    StateInv (s.setRun (.faulted f)) := by
  refine ⟨hmem, hdepth, fun _ h => (nomatch h), fun g hg => ?_⟩
  obtain rfl : f = g := RunState.faulted.inj hg
  exact ⟨hpc, hopcode⟩

/-- The invariant speaks of no other field than these five. -/
theorem StateInv.congr {s t : State} (h : StateInv s) (hmem : t.mem = s.mem) (hstack : t.stack = s.stack)
    (hrun : t.run = s.run) (hpc : t.pc = s.pc) (hopcode : t.opcode = s.opcode) : StateInv t := by
  obtain ⟨h1, h2, h3, h4⟩ := h
  exact ⟨hmem ▸ h1, hstack ▸ h2, by rwa [hrun, hpc, hopcode], by rwa [hrun, hpc, hopcode]⟩

/-! ## Instructions and Steps -/

/-- An instruction keeps the invariant from a running state whose OPCODE is its word. -/
theorem exec_keeps_inv {i : Instr} {s t : State} (hinv : StateInv s) (hrun : s.run = .running)
    (hpc : s.pc.toNat ≤ 4094) (hi : decodeWord s.opcode = .ok i) (h : exec i s = .next t) : StateInv t := by
  obtain ⟨hmem, hdepth, _, _⟩ := hinv
  obtain ⟨f, hf, rfl⟩ | ⟨hf, rfl⟩ := exec_cases h
  · obtain ⟨hfpc, hfop⟩ := faultOf_records hi hf
    exact .setRun_faulted hmem hdepth hfpc fun _ => hfop
  · obtain ⟨x, rfl, _⟩ | hr := effect_run i s
    · refine ⟨hmem, hdepth, fun y hy => ?_, fun _ hf => (nomatch hf)⟩
      obtain rfl : x = y := RunState.waiting.inj hy
      exact ⟨hi, hpc⟩
    · exact .of_running (effect_mem_wf hf hmem) (effect_stack_length hf hdepth) (hr.trans hrun)

theorem illegal_keeps_inv {w : Word} {s t : State} (hinv : StateInv s) (hrun : s.run = .running)
    (hw : s.opcode = w) (h : illegal w s = .next t) : StateInv t := by
  obtain ⟨hmem, hdepth, _, _⟩ := hinv
  obtain ⟨_, ht⟩ | ⟨_, ht⟩ := illegal_cases w s <;> obtain rfl := Host.Outcome.next.inj (ht.symm.trans h)
  · exact .setRun_faulted hmem hdepth rfl fun _ => congrArg some hw.symm
  · exact .of_running hmem hdepth hrun

theorem stepRand_keeps_inv {r : Byte} {s t : State} (hinv : StateInv s) (h : stepRand r s = .next t) : StateInv t := by
  have hlatched (hrun : s.run = .running) : StateInv (latched r s) := .of_running hinv.memory hinv.depth hrun
  obtain ⟨_, ht⟩ | ⟨_, hpc, ht⟩ | ⟨hrun, hpc, i, hi, ht⟩ | ⟨hrun, _, e, _, ht⟩ := stepRand_cases r s
  · exact Host.Outcome.next.inj (ht.symm.trans h) ▸ hinv
  · obtain rfl := Host.Outcome.next.inj (ht.symm.trans h)
    exact .setRun_faulted hinv.memory hinv.depth rfl fun hle => absurd hle (Nat.not_le.mpr hpc)
  · exact exec_keeps_inv (hlatched hrun) hrun hpc hi (ht.symm.trans h)
  · exact illegal_keeps_inv (hlatched hrun) hrun rfl (ht.symm.trans h)

/-! ## The other transactions -/

theorem reset_inv : StateInv State.reset := .of_running rfl (Nat.zero_le 16) rfl

theorem load_eq {font : Vector Byte 80} {rom : List Byte} (s : State) (h : 0x200 + rom.length ≤ 4096) :
    load font rom s = .next { State.reset with
      mem := loadImage font rom, decodeErrorPolicy := s.decodeErrorPolicy, rand := s.rand, draws := s.draws } :=
  if_neg (Nat.not_lt.mpr h)

theorem load_too_long {font : Vector Byte 80} {rom : List Byte} (s : State) (h : 0x200 + rom.length > 4096) :
    load font rom s = .fault (.loadError rom.length) := if_pos h

/-- A Load that answers a state was given a ROM that fits; the state is the reset state with another memory. -/
theorem load_gives_inv {font : Vector Byte 80} {rom : List Byte} {s t : State} (h : load font rom s = .next t) :
    StateInv t ∧ t.run = .running := by
  by_cases hlen : 0x200 + rom.length ≤ 4096
  · obtain rfl := Host.Outcome.next.inj ((load_eq s hlen).symm.trans h)
    exact ⟨.of_running (wf_loadImage hlen) (Nat.zero_le 16) rfl, rfl⟩
  · rw [load_too_long s (by omega)] at h
    cases h

theorem keyUpdate_keeps_inv {u : KeyChange} {pick : Nat} {s t : State} (hinv : StateInv s)
    (h : keyUpdate u pick s = .next t) : StateInv t := by
  obtain ⟨new, ⟨x, j, _, rfl⟩ | rfl⟩ := keyUpdate_cases h
  · exact .of_running hinv.memory hinv.depth rfl
  · exact hinv.congr rfl rfl rfl rfl rfl

/-- A transaction that answers a state took it from its result, or was refused and kept the state. -/
theorem withReply_next {s s' : State} {res : Result} {reply : State → Reply} {r : Reply}
    (h : withReply s res reply = .next (s', r)) : res = .next s' ∨ s' = s := by
  cases res with
  | next t => exact .inl (congrArg _ (Prod.mk.inj (Host.Outcome.next.inj h)).1)
  | refused e => exact .inr (Prod.mk.inj (Host.Outcome.next.inj h)).1.symm
  | fault f => cases h

theorem transact_keeps_inv {t : Transaction} {s s' : State} {r : Reply} (hinv : StateInv s)
    (h : transact t s = .next (s', r)) : StateInv s' := by
  cases t with
  | load font rom =>
    obtain h | rfl := withReply_next h
    · exact (load_gives_inv h).1
    · exact hinv
  | step rand =>
    obtain h | rfl := withReply_next h
    · exact stepRand_keeps_inv hinv h
    · exact hinv
  | keyUpdate u pick =>
    obtain h | rfl := withReply_next h
    · exact keyUpdate_keeps_inv hinv h
    · exact hinv
  | tick | displayRead | displayAck =>
    cases h
    exact hinv.congr rfl rfl rfl rfl rfl

/-- The invariant of a core that may have no VM state. -/
def VmInv (v : Vm) : Prop := ∀ s, v = .present s → StateInv s

theorem fresh_inv (c : Carried) : StateInv c.fresh := reset_inv.congr rfl rfl rfl rfl rfl

theorem transactVm_keeps_inv {t : Transaction} {v : Vm} (h : VmInv v) : VmInv (transactVm t v).1 := by
  obtain ⟨s, s', r, rfl, ht, hv⟩ | ⟨s, e, rfl, _, hv⟩ | ⟨c, font, rom, s', r, rfl, rfl, ht, hv⟩ | ⟨c, hv⟩ :=
    transactVm_cases t v <;> rw [hv]
  · rintro _ ⟨⟩
    exact transact_keeps_inv (h s rfl) ht
  · exact h
  · rintro _ ⟨⟩
    exact transact_keeps_inv (fresh_inv c) ht
  · exact fun _ hs => nomatch hs

theorem reachableVm_inv {v : Vm} (h : ReachableVm v) : VmInv v := by
  induction h with
  | unloaded c => exact fun _ hs => nomatch hs
  | reset =>
    rintro _ ⟨⟩
    exact reset_inv
  | transact t _ ih => exact transactVm_keeps_inv ih

/-! ## The obligations -/

/-- Settles O59: a Step with any input keeps the invariant, so one with the drawn input does. -/
theorem stepKeepsTheInvariant : Obligations.StepKeepsTheInvariant := by
  unfold Obligations.StepKeepsTheInvariant
  exact fun _ _ hinv h => stepRand_keeps_inv hinv h

/-- Settles O60, by induction on the transactions that reach the state. -/
theorem everyReachableStateMeetsTheInvariant : Obligations.EveryReachableStateMeetsTheInvariant := by
  unfold Obligations.EveryReachableStateMeetsTheInvariant
  exact ⟨fun _ _ _ _ hinv h => transact_keeps_inv hinv h, fun s h => reachableVm_inv h s rfl⟩

/-- Settles O58: reset is a running state with empty memory list and empty stack. -/
theorem resetMeetsTheInvariant : Obligations.ResetMeetsTheInvariant := reset_inv

/-- Settles O50, transaction by transaction: a Step of a faulted core does nothing, a KeyUpdate ends only a wait, and
Load builds a running state. -/
theorem onlyLoadLeavesFaulted : Obligations.OnlyLoadLeavesFaulted := by
  unfold Obligations.OnlyLoadLeavesFaulted
  intro s s' f t r hf h
  cases t with
  | load font rom =>
    refine .inl ⟨font, rom, rfl, ?_⟩
    by_cases hlen : 0x200 + rom.length ≤ 4096
    · rw [transact, load_eq s hlen] at h
      cases h
      rfl
    · rw [transact, load_too_long s (by omega)] at h
      cases h
  | step rand =>
    refine .inr ⟨nofun, ?_⟩
    obtain h | rfl := withReply_next h
    · rw [stepRand_suspended rand (by rw [hf]; nofun)] at h
      exact Host.Outcome.next.inj h ▸ hf
    · exact hf
  | keyUpdate u pick =>
    refine .inr ⟨nofun, ?_⟩
    obtain h | rfl := withReply_next h
    · obtain ⟨new, ⟨x, j, hx, _⟩ | rfl⟩ := keyUpdate_cases h
      · rw [hf] at hx
        cases hx
      · exact hf
    · exact hf
  | tick | displayRead | displayAck =>
    cases h
    exact .inr ⟨nofun, hf⟩

end Sys2Proof.Machine
end

section
/-! PROOFS. Arithmetic, logic, shifts (42_register_alu.md), the index sum (43_index_memory.md, R243), the register skips
and the call (41_control_flow.md). The arithmetic instructions make one of two writes: a result alone, or a flag and
then a result. -/

namespace Sys2Proof.Machine

/-! ## The two register writes -/

/-- What a written result leaves: the destination has it, every other register is as before. -/
theorem writeResult_spec (x : RegIdx) (b : Byte) (s : State) : ∃ t, writeResult x b s = .next t ∧
    t.v.get x = b ∧ (∀ r, r ≠ x → t.v.get r = s.v.get r) ∧ t = { s with v := t.v, pc := s.pc + 2 } :=
  ⟨(s.setV x b).advance, rfl, (getV_setV s x x b).trans (if_pos rfl),
    fun r hr => (getV_setV s x r b).trans (if_neg hr), rfl⟩

theorem getV_setFlagged (s : State) (x r : RegIdx) (f b : Byte) :
    (s.setFlagged x f b).getV r = if r = x then b else if r = vF then f else s.getV r := by
  rw [State.setFlagged, getV_setV, getV_setV]

/-- What a flagged write leaves: the destination has the result, vF the flag unless it is the destination, every other
register is as before (R201). -/
theorem writeFlagged_spec (x : RegIdx) (f b : Byte) (s : State) : ∃ t, writeFlagged x f b s = .next t ∧
    t.v.get x = b ∧ (x ≠ 15 → t.v.get 15 = f) ∧ (∀ r, r ≠ x → r ≠ 15 → t.v.get r = s.v.get r) ∧
    t = { s with v := t.v, pc := s.pc + 2 } :=
  ⟨(s.setFlagged x f b).advance, rfl, (getV_setFlagged s x x f b).trans (if_pos rfl),
    fun hx => (getV_setFlagged s x vF f b).trans ((if_neg hx.symm).trans (if_pos rfl)),
    fun r hr hF => (getV_setFlagged s x r f b).trans ((if_neg hr).trans (if_neg hF)), rfl⟩

/-! ## The flags and results as numbers -/

theorem flagByte_toNat (c : Bool) : (flagByte c).toNat = c.toNat := by cases c <;> rfl

theorem carryFlag_eq (a b : Byte) : carryFlag a b = if a.toNat + b.toNat > 255 then 1 else 0 := by
  simp only [carryFlag, flagByte, decide_eq_true_eq]

theorem noBorrowFlag_eq (a b : Byte) : noBorrowFlag a b = if a.toNat ≥ b.toNat then 1 else 0 := by
  simp only [noBorrowFlag, flagByte, decide_eq_true_eq]

theorem shrFlag_toNat (a : Byte) : (shrFlag a).toNat = a.toNat % 2 := by
  rw [shrFlag, flagByte_toNat, BitVec.getLsbD, Nat.toNat_testBit, Nat.pow_zero, Nat.div_one]

theorem shlFlag_toNat (a : Byte) : (shlFlag a).toNat = a.toNat / 128 := by
  have := a.isLt
  rw [shlFlag, flagByte_toNat, BitVec.getLsbD, Nat.toNat_testBit]
  omega

/-- A difference mod 256, on exact integers. -/
theorem sub_toNat_int (a b : Byte) : ((a - b).toNat : Int) = ((a.toNat : Int) - b.toNat) % 256 := by
  have := a.isLt
  have := b.isLt
  rw [BitVec.toNat_sub]
  omega

theorem ushiftRight_one_toNat (a : Byte) : (a >>> 1).toNat = a.toNat / 2 := by
  rw [BitVec.toNat_ushiftRight, Nat.shiftRight_eq_div_pow, Nat.pow_one]

theorem shiftLeft_one_toNat (a : Byte) : (a <<< 1).toNat = a.toNat * 2 % 256 := by
  rw [BitVec.toNat_shiftLeft, Nat.shiftLeft_eq, Nat.pow_one]

/-! ## The call -/

theorem exec_callAddr_of_room {s : State} (nnn : Word) (h : s.stack.length < 16) :
    exec (.callAddr nnn) s = .next ((s.push s.pc).setPc nnn) := if_neg (Nat.not_le.mpr h)

theorem exec_callAddr_of_full {s : State} (nnn : Word) (h : s.stack.length ≥ 16) :
    exec (.callAddr nnn) s = .next (s.setRun (.faulted (.stackOverflow s.opcode s.pc))) := if_pos h

/-! ## The obligations -/

/-- Settles O7: one written result, the sum. -/
theorem addByteWrapsAndKeepsFlag : Obligations.AddByteWrapsAndKeepsFlag := by
  unfold Obligations.AddByteWrapsAndKeepsFlag
  intro x nn s
  obtain ⟨t, ht, hx, hothers, hframe⟩ := writeResult_spec x (s.getV x + nn) s
  exact ⟨t, ht, by rw [hx]; exact BitVec.toNat_add _ _, hothers, hframe⟩

/-- Settles O9: three written results, each bit by bit. -/
theorem logicIsBitwiseAndKeepsFlag : Obligations.LogicIsBitwiseAndKeepsFlag := by
  unfold Obligations.LogicIsBitwiseAndKeepsFlag
  intro x y s
  obtain ⟨t, ht, htx, htr, htf⟩ := writeResult_spec x (s.getV x ||| s.getV y) s
  obtain ⟨u, hu, hux, hur, huf⟩ := writeResult_spec x (s.getV x &&& s.getV y) s
  obtain ⟨w, hw, hwx, hwr, hwf⟩ := writeResult_spec x (s.getV x ^^^ s.getV y) s
  refine ⟨t, u, w, ht, hu, hw, fun k => ?or, fun k => ?and, fun k => ?xor,
    fun r hr => ⟨htr r hr, hur r hr, hwr r hr⟩, htf, huf, hwf⟩
  case or => rw [htx]; exact BitVec.getLsbD_or
  case and => rw [hux]; exact BitVec.getLsbD_and
  case xor => rw [hwx]; exact BitVec.getLsbD_xor

/-- Settles O10: one flagged write, the carry and the sum. -/
theorem addRegistersSetsCarry : Obligations.AddRegistersSetsCarry := by
  unfold Obligations.AddRegistersSetsCarry
  intro x y s
  obtain ⟨t, ht, hx, hflag, hothers, hframe⟩ :=
    writeFlagged_spec x (carryFlag (s.getV x) (s.getV y)) (s.getV x + s.getV y) s
  exact ⟨t, ht, by rw [hx]; exact BitVec.toNat_add _ _, fun h => (hflag h).trans (carryFlag_eq _ _), hothers, hframe⟩

/-- Settles O11: two flagged writes, each the no-borrow flag and the difference. -/
theorem subtractsSetNoBorrow : Obligations.SubtractsSetNoBorrow := by
  unfold Obligations.SubtractsSetNoBorrow
  intro x y s
  obtain ⟨t, ht, htx, htflag, htr, htf⟩ :=
    writeFlagged_spec x (noBorrowFlag (s.getV x) (s.getV y)) (s.getV x - s.getV y) s
  obtain ⟨u, hu, hux, huflag, hur, huf⟩ :=
    writeFlagged_spec x (noBorrowFlag (s.getV y) (s.getV x)) (s.getV y - s.getV x) s
  exact ⟨t, u, ht, hu, by rw [htx]; exact sub_toNat_int _ _, by rw [hux]; exact sub_toNat_int _ _,
    fun h => (htflag h).trans (noBorrowFlag_eq _ _), fun h => (huflag h).trans (noBorrowFlag_eq _ _),
    fun r hr hF => ⟨htr r hr hF, hur r hr hF⟩, htf, huf⟩

/-- Settles O12: two flagged writes of V[X] shifted, with its lowest or its highest bit; Y is not read. -/
theorem shiftsMoveVxAndSetTheBitLost : Obligations.ShiftsMoveVxAndSetTheBitLost := by
  unfold Obligations.ShiftsMoveVxAndSetTheBitLost
  intro x y s
  obtain ⟨t, ht, htx, htflag, htr, htf⟩ := writeFlagged_spec x (shrFlag (s.getV x)) (s.getV x >>> 1) s
  obtain ⟨u, hu, hux, huflag, hur, huf⟩ := writeFlagged_spec x (shlFlag (s.getV x)) (s.getV x <<< 1) s
  refine ⟨t, u, ht, hu, ?half, ?double, fun h => ⟨?low, ?high⟩, fun r hr hF => ⟨htr r hr hF, hur r hr hF⟩, htf, huf⟩
  case half => rw [htx]; exact ushiftRight_one_toNat _
  case double => rw [hux]; exact shiftLeft_one_toNat _
  case low => rw [htflag h]; exact shrFlag_toNat _
  case high => rw [huflag h]; exact shlFlag_toNat _

/-- Settles O22: one index write, the sum mod 65536. -/
theorem addIndexWrapsAt65536 : Obligations.AddIndexWrapsAt65536 := by
  unfold Obligations.AddIndexWrapsAt65536
  refine fun x s => ⟨_, writeIndex_eq (s.indexPlus x) s, ?_, rfl⟩
  have := (s.v.get x).isLt
  simp only [State.indexPlus, State.getV, BitVec.toNat_add, BitVec.toNat_setWidth]
  omega

/-- Settles O18: a skip takes no fault and has no effect, so the next state is the old one with the next PC. -/
theorem skipsCompareTheirOperands : Obligations.SkipsCompareTheirOperands := by
  unfold Obligations.SkipsCompareTheirOperands
  exact fun x y nn s => ⟨exec_eq (.seVxByte x nn) s, exec_eq (.sneVxByte x nn) s, exec_eq (.seVxVy x y) s,
    exec_eq (.sneVxVy x y) s⟩

/-- Settles O16: the two branches of the depth check. -/
theorem callPushesItsOwnAddress : Obligations.CallPushesItsOwnAddress := by
  unfold Obligations.CallPushesItsOwnAddress
  exact fun nnn s => ⟨fun h => exec_callAddr_of_room nnn h, fun h => exec_callAddr_of_full nnn (Nat.le_of_eq h.symm)⟩

/-- Settles O17: the call leaves its own address on top, which the return pops. -/
theorem returnUndoesCall : Obligations.ReturnUndoesCall := by
  unfold Obligations.ReturnUndoesCall
  intro nnn s t u hroom hcall hstack
  obtain rfl := Host.Outcome.next.inj ((exec_callAddr_of_room nnn hroom).symm.trans hcall)
  exact ⟨_, exec_ret_of_stack_cons hstack, rfl, rfl⟩

end Sys2Proof.Machine
end

section
/-! PROOFS. Memory and the instructions that store to it and load from it (20_memory.md, 43_index_memory.md sections 3
and 4). Each of these instructions checks its whole span first, so it completes or changes RUN alone. -/

namespace Sys2Proof.Machine

/-! ## Storing and loading a span -/

theorem storeAtIndex_inside {bs : List Byte} {s : State} (h : s.i.toNat + bs.length ≤ 4096) :
    storeAtIndex bs s = .next { s with mem := s.mem.writeBytes s.i.toNat bs, pc := s.pc + 2 } :=
  checkSpan_inside (.inr h)

theorem storeAtIndex_outside {bs : List Byte} {s : State} (h0 : 0 < bs.length) (h : s.i.toNat + bs.length > 4096) :
    storeAtIndex bs s = .next { s with
      run := .faulted (.outOfBoundsAccess (.addr (max s.i.toNat 0x1000)) s.pc (some s.opcode)) } :=
  checkSpan_outside h0 h

/-- The state FX55 leaves inside memory. -/
theorem exec_ldMemVx_inside {x : RegIdx} {s : State} (h : s.i.toNat + x.val ≤ 0xFFF) :
    exec (.ldMemVx x) s = .next { s with mem := s.mem.writeBytes s.i.toNat (s.regRange x), pc := s.pc + 2 } :=
  storeAtIndex_inside (by rw [length_regRange]; omega)

/-- The state FX65 leaves inside memory. -/
theorem exec_ldVxMem_inside {x : RegIdx} {s : State} (h : s.i.toNat + x.val ≤ 0xFFF) :
    exec (.ldVxMem x) s =
      .next { s with v := writeRegs s.v 0 (s.mem.readBytes s.i.toNat (x.val + 1)), pc := s.pc + 2 } :=
  checkSpan_inside (.inr (by simp only [State.indexAddr]; omega))

theorem length_bcdDigits (b : Byte) : (bcdDigits b).length = 3 := rfl

/-! ## What they read back -/

/-- A byte stored from a register reads as the register. -/
theorem read_writeBytes_regRange {s : State} (hwf : s.mem.wf = true) {x k : RegIdx} (h : s.i.toNat + x.val ≤ 0xFFF)
    (hk : k.val ≤ x.val) : (s.mem.writeBytes s.i.toNat (s.regRange x)).read (s.i.toNat + k.val) = s.v.get k := by
  have hlen := length_regRange s x
  rw [Memory.read_writeBytes_inside hwf (by omega) (by omega : k.val < (s.regRange x).length), getElem_regRange]
  rfl

/-- A register loaded by FX65 has the byte at its place. -/
theorem get_writeRegs_readBytes_of_le (v : Vector Byte 16) (m : Memory) (a : Nat) {x k : RegIdx} (h : k.val ≤ x.val) :
    (writeRegs v 0 (m.readBytes a (x.val + 1))).get k = m.read (a + k.val) := by
  rw [get_writeRegs, dif_pos (by rw [Memory.length_readBytes]; omega), Memory.getElem_readBytes, Nat.sub_zero]

theorem get_writeRegs_readBytes_of_lt (v : Vector Byte 16) (m : Memory) (a : Nat) {x k : RegIdx} (h : x.val < k.val) :
    (writeRegs v 0 (m.readBytes a (x.val + 1))).get k = v.get k := by
  rw [get_writeRegs, dif_neg (by rw [Memory.length_readBytes]; omega)]

/-! ## The obligations -/

/-- Settles O29: a write to its own address, to another, and the canonical form. -/
theorem readReturnsTheLastWrite : Obligations.ReadReturnsTheLastWrite := by
  unfold Obligations.ReadReturnsTheLastWrite
  refine fun m a c b hm => ⟨?_, fun ha => Memory.wf_write b ha hm⟩
  split
  case isTrue h => rw [h, Memory.read_write_self hm]
  case isFalse h => exact Memory.read_write_other m b h

/-- Settles O24: the store of the three digits, each below 256 and so exact. -/
theorem decimalDigitsAreStoredAtI : Obligations.DecimalDigitsAreStoredAtI := by
  unfold Obligations.DecimalDigitsAreStoredAtI
  intro x s hwf
  have hbyte := (s.v.get x).isLt
  have hlen := length_bcdDigits (s.getV x)
  refine ⟨fun h => ?inside, fun h => storeAtIndex_outside (by omega) (by omega)⟩
  have hread (k : Nat) (hk : k < 3) := Memory.read_writeBytes_inside hwf
    (by omega : s.i.toNat + (bcdDigits (s.getV x)).length ≤ 4096) (k := k) hk
  refine ⟨_, storeAtIndex_inside (by omega), ?hundreds, ?tens, ?ones, fun a ha => ?others, rfl⟩
  case hundreds => exact (congrArg BitVec.toNat (hread 0 (by omega))).trans (Nat.mod_eq_of_lt (by omega))
  case tens => exact (congrArg BitVec.toNat (hread 1 (by omega))).trans (Nat.mod_eq_of_lt (by omega))
  case ones => exact (congrArg BitVec.toNat (hread 2 (by omega))).trans (Nat.mod_eq_of_lt (by omega))
  case others => exact Memory.read_writeBytes_outside s.mem (by omega)

/-- Settles O25: the store of `V[0]..V[X]`. -/
theorem registersAreStoredAtI : Obligations.RegistersAreStoredAtI := by
  unfold Obligations.RegistersAreStoredAtI
  intro x s hwf
  have hlen := length_regRange s x
  refine ⟨fun h => ⟨_, exec_ldMemVx_inside h, fun k hk => read_writeBytes_regRange hwf h hk, fun a ha => ?others, rfl⟩,
    fun h => storeAtIndex_outside (bs := s.regRange x) (by omega) (by omega)⟩
  case others => exact Memory.read_writeBytes_outside s.mem (by omega)

/-- Settles O26: the load of `V[0]..V[X]`. -/
theorem registersAreLoadedFromI : Obligations.RegistersAreLoadedFromI := by
  unfold Obligations.RegistersAreLoadedFromI
  intro x s
  refine ⟨fun h => ⟨_, exec_ldVxMem_inside h, fun k hk => get_writeRegs_readBytes_of_le _ _ _ hk,
    fun k hk => get_writeRegs_readBytes_of_lt _ _ _ hk, rfl⟩,
    fun h => checkSpan_outside (Nat.succ_pos _) ?outside⟩
  case outside => simp only [State.indexAddr]; omega

/-- Settles O27: the load reads the bytes the store wrote. -/
theorem storeThenLoadRoundTrips : Obligations.StoreThenLoadRoundTrips := by
  unfold Obligations.StoreThenLoadRoundTrips
  intro x s t u hwf h hexec hmem hi
  obtain rfl := Host.Outcome.next.inj ((exec_ldMemVx_inside h).symm.trans hexec)
  refine ⟨_, exec_ldVxMem_inside (by rw [hi]; exact h), fun k hk => ?stored, fun k hk => ?above⟩
  case stored =>
    refine (get_writeRegs_readBytes_of_le _ _ _ hk).trans ?_
    rw [hmem, hi]
    exact read_writeBytes_regRange hwf h hk
  case above => exact get_writeRegs_readBytes_of_lt _ _ _ hk

/-- Settles O28: a fetch reads memory as any load does (R87). -/
theorem storedBytesAreFetched : Obligations.StoredBytesAreFetched := by
  unfold Obligations.StoredBytesAreFetched
  intro x k s t hwf h hexec hk
  have hx := x.isLt
  obtain rfl := Host.Outcome.next.inj ((exec_ldMemVx_inside h).symm.trans hexec)
  have hhi := read_writeBytes_regRange hwf h (Nat.le_of_lt hk)
  have hlo := read_writeBytes_regRange hwf h (k := ⟨k.val + 1, by omega⟩) hk
  rw [fetchAt_inside (by omega), Nat.add_assoc]
  exact congrArg some (congrArg₂ (· ++ ·) hhi hlo)

end Sys2Proof.Machine
end

section
/-! PROOFS. Drawing (44_display.md sections 2 and 3). A sprite is described by the cells its set bits land on: a row
changes exactly those cells, rows at different lines change different cells, so a sprite of at most 32 rows changes
exactly the cells of its bits, and collides where one of them was 1. -/

namespace Sys2Proof.Machine

/-! ## The cells of a sprite -/

/-- A set bit of the row `b` drawn at column `x0` and line `y` lands on the cell (R276, R277). -/
def RowBit (b : Byte) (x0 : Nat) (y : Fin 32) (cx : Fin 64) (cy : Fin 32) : Prop :=
  cy = y ∧ ∃ c ∈ List.range 8, b.getLsbD (7 - c) = true ∧ cx.val = (x0 + c) % 64

/-- A set bit of the sprite `bs` drawn at (`x0`, `y0`) lands on the cell (R276, R278). -/
def SpriteBit (bs : List Byte) (x0 y0 : Nat) (cx : Fin 64) (cy : Fin 32) : Prop :=
  ∃ (r : Nat) (h : r < bs.length), RowBit bs[r] x0 (Display.line (y0 + r)) cx cy

theorem spriteBit_nil (x0 y0 : Nat) (cx : Fin 64) (cy : Fin 32) : ¬ SpriteBit [] x0 y0 cx cy :=
  fun ⟨_, h, _⟩ => absurd h (Nat.not_lt_zero _)

theorem spriteBit_cons (b : Byte) (bs : List Byte) (x0 y0 : Nat) (cx : Fin 64) (cy : Fin 32) :
    SpriteBit (b :: bs) x0 y0 cx cy ↔ SpriteBit bs x0 (y0 + 1) cx cy ∨ RowBit b x0 (Display.line y0) cx cy := by
  constructor
  · rintro ⟨r, h, hr⟩
    cases r with
    | zero => exact .inr hr
    | succ r => exact .inl ⟨r, Nat.lt_of_succ_lt_succ h, by rwa [Nat.add_right_comm]⟩
  · rintro (⟨r, h, hr⟩ | h0)
    · exact ⟨r + 1, Nat.succ_lt_succ h, by rwa [Nat.add_right_comm] at hr⟩
    · exact ⟨0, Nat.succ_pos _, h0⟩

/-- Two rows less than 32 lines apart have no cell in common. -/
theorem not_rowBit_of_spriteBit {b : Byte} {bs : List Byte} {x0 y0 : Nat} {cx : Fin 64} {cy : Fin 32}
    (hlen : bs.length < 32) (h : SpriteBit bs x0 (y0 + 1) cx cy) : ¬ RowBit b x0 (Display.line y0) cx cy := by
  rintro ⟨hy, _⟩
  obtain ⟨r, hr, hy', _⟩ := h
  have := congrArg Fin.val (hy.symm.trans hy')
  simp only [line_val] at this
  omega

/-! ## Rows and sprites change the cells of their bits -/

theorem bool_ne_trans {a b c : Bool} {P Q : Prop} (hab : a ≠ b ↔ P) (hbc : b ≠ c ↔ Q) (hPQ : P → ¬ Q) :
    a ≠ c ↔ P ∨ Q := by
  rw [← hab, ← hbc] at hPQ ⊢
  revert hPQ
  cases a <;> cases b <;> cases c <;> decide

theorem bool_eq_of_ne_iff {a b c : Bool} (h : a ≠ b ↔ b ≠ c) : a = c := by
  revert h
  cases a <;> cases b <;> cases c <;> decide

theorem drawRow_changes (b : Byte) (x0 : Nat) (y : Fin 32) (p : Display × Bool) (cx : Fin 64) (cy : Fin 32) :
    Display.cell (drawRow b x0 y p).1 cx cy ≠ Display.cell p.1 cx cy ↔ RowBit b x0 y cx cy := by
  rw [(drawRow_spec b x0 y p).1, RowBit]
  cases Display.cell p.1 cx cy <;> simp

theorem drawRow_hit (b : Byte) (x0 : Nat) (y : Fin 32) (p : Display × Bool) :
    (drawRow b x0 y p).2 = true ↔ p.2 = true ∨ ∃ cx cy, RowBit b x0 y cx cy ∧ Display.cell p.1 cx cy = true := by
  rw [(drawRow_spec b x0 y p).2]
  refine or_congr Iff.rfl ⟨?_, ?_⟩
  · rintro ⟨c, hc, hbit, hcell⟩
    exact ⟨_, y, ⟨rfl, c, hc, hbit, rfl⟩, hcell⟩
  · rintro ⟨cx, cy, ⟨rfl, c, hc, hbit, hcx⟩, hcell⟩
    obtain rfl : cx = Display.column (x0 + c) := Fin.ext hcx
    exact ⟨c, hc, hbit, hcell⟩

theorem drawRows_changes {bs : List Byte} (hlen : bs.length ≤ 32) (x0 y0 : Nat) (p : Display × Bool) (cx : Fin 64)
    (cy : Fin 32) :
    Display.cell (drawRows x0 y0 bs p).1 cx cy ≠ Display.cell p.1 cx cy ↔ SpriteBit bs x0 y0 cx cy := by
  induction bs generalizing y0 p with
  | nil => exact iff_of_false (fun h => h rfl) (spriteBit_nil x0 y0 cx cy)
  | cons b bs ih =>
    rw [List.length_cons] at hlen
    rw [drawRows, spriteBit_cons]
    exact bool_ne_trans (ih (by omega) (y0 + 1) _) (drawRow_changes b x0 _ p cx cy)
      (not_rowBit_of_spriteBit (by omega))

theorem drawRows_hit {bs : List Byte} (hlen : bs.length ≤ 32) (x0 y0 : Nat) (p : Display × Bool) :
    (drawRows x0 y0 bs p).2 = true ↔
      p.2 = true ∨ ∃ cx cy, SpriteBit bs x0 y0 cx cy ∧ Display.cell p.1 cx cy = true := by
  induction bs generalizing y0 p with
  | nil => simp [drawRows, spriteBit_nil]
  | cons b bs ih =>
    rw [List.length_cons] at hlen
    have hkept (cx cy) (h : SpriteBit bs x0 (y0 + 1) cx cy) :
        Display.cell (drawRow b x0 (Display.line y0) p).1 cx cy = Display.cell p.1 cx cy :=
      not_not.mp (mt (drawRow_changes b x0 _ p cx cy).mp (not_rowBit_of_spriteBit (by omega) h))
    have hrest : (∃ cx cy, SpriteBit bs x0 (y0 + 1) cx cy ∧
          Display.cell (drawRow b x0 (Display.line y0) p).1 cx cy = true) ↔
        ∃ cx cy, SpriteBit bs x0 (y0 + 1) cx cy ∧ Display.cell p.1 cx cy = true :=
      exists₂_congr fun cx cy => and_congr_right fun h => by rw [hkept cx cy h]
    rw [drawRows, ih (by omega), hrest, drawRow_hit, or_assoc]
    simp only [spriteBit_cons, or_and_right, exists_or]
    rw [or_comm (a := ∃ cx cy, RowBit _ _ _ _ _ ∧ _)]

/-! ## The sprite of DXYN -/

/-- The cells the sprite of DXYN lands on, from the state before it. -/
def DrawBit (x y : RegIdx) (n : Nat) (s : State) (cx : Fin 64) (cy : Fin 32) : Prop :=
  SpriteBit (s.mem.readBytes s.indexAddr n) (s.getV x).toNat (s.getV y).toNat cx cy

theorem drawBit_iff {n : Nat} (hn : n ≤ 15) (x y : RegIdx) (s : State) (cx : Fin 64) (cy : Fin 32) :
    DrawBit x y n s cx cy ↔
      ∃ r : Fin 15, ∃ c : Fin 8, r.val < n ∧ (s.mem.read (s.i.toNat + r.val)).getLsbD (7 - c.val) = true ∧
        cx.val = ((s.v.get x).toNat + c.val) % 64 ∧ cy.val = ((s.v.get y).toNat + r.val) % 32 := by
  constructor
  · rintro ⟨r, h, hy, c, hc, hbit, hcx⟩
    rw [Memory.length_readBytes] at h
    rw [Memory.getElem_readBytes] at hbit
    exact ⟨⟨r, by omega⟩, ⟨c, List.mem_range.mp hc⟩, h, hbit, hcx, congrArg Fin.val hy⟩
  · rintro ⟨r, c, h, hbit, hcx, hcy⟩
    refine ⟨r.val, by rwa [Memory.length_readBytes], Fin.ext hcy, c.val, List.mem_range.mpr c.isLt, ?_, hcx⟩
    rw [Memory.getElem_readBytes]
    exact hbit

theorem drawSprite_changes {n : Nat} (hn : n ≤ 15) (x y : RegIdx) (s : State) (cx : Fin 64) (cy : Fin 32) :
    Display.cell (drawSprite x y n s).1 cx cy ≠ Display.cell s.disp cx cy ↔ DrawBit x y n s cx cy :=
  drawRows_changes (by rw [Memory.length_readBytes]; omega) _ _ _ cx cy

/-- The sprite collides exactly if some cell went from 1 to 0 (R279). -/
theorem drawSprite_hit {n : Nat} (hn : n ≤ 15) (x y : RegIdx) (s : State) :
    (drawSprite x y n s).2 = true ↔
      ∃ cx cy, Display.cell s.disp cx cy = true ∧ Display.cell (drawSprite x y n s).1 cx cy = false := by
  have hhit := drawRows_hit (bs := s.mem.readBytes s.indexAddr n) (by rw [Memory.length_readBytes]; omega)
    (s.getV x).toNat (s.getV y).toNat (s.disp, false)
  rw [drawSprite, hhit, or_iff_right Bool.false_ne_true]
  refine exists₂_congr fun cx cy => ?_
  rw [and_comm]
  refine and_congr_right fun hold => ?_
  rw [← DrawBit, ← drawSprite_changes hn, hold, drawSprite]
  exact iff_of_eq (Bool.not_eq_true _)

/-- The state DXYN leaves when its rows are inside memory. -/
def drawn (x y : RegIdx) (n : Nat) (s : State) : State :=
  { s with
    disp := (drawSprite x y n s).1, v := s.v.set 15 (flagByte (drawSprite x y n s).2), redraw := true, pc := s.pc + 2 }

theorem exec_drw_inside {n : Nat} (x y : RegIdx) {s : State} (h : n = 0 ∨ s.i.toNat + n - 1 ≤ 0xFFF) :
    exec (.drwVxVyNibble x y n) s = .next (drawn x y n s) :=
  checkSpan_inside (by simp only [State.indexAddr]; omega)

theorem getV_drawn (x y : RegIdx) (n : Nat) (s : State) (r : RegIdx) :
    (drawn x y n s).v.get r = if r = 15 then flagByte (drawSprite x y n s).2 else s.v.get r :=
  getV_setV s vF r _

theorem flagByte_eq_ite {c : Bool} {P : Prop} [Decidable P] (h : c = true ↔ P) : flagByte c = if P then 1 else 0 :=
  if_congr h rfl rfl

theorem vF_drawn {n : Nat} (hn : n ≤ 15) (x y : RegIdx) (s : State) [Decidable (∃ cx cy,
    Display.cell s.disp cx cy = true ∧ Display.cell (drawn x y n s).disp cx cy = false)] :
    (drawn x y n s).v.get 15 =
      if ∃ cx cy, Display.cell s.disp cx cy = true ∧ Display.cell (drawn x y n s).disp cx cy = false then 1 else 0 :=
  (getV_drawn x y n s 15).trans ((if_pos rfl).trans (flagByte_eq_ite (drawSprite_hit hn x y s)))

/-- A second draw of the same sprite at the same place changes the same cells back. -/
theorem disp_drawn_drawn {n : Nat} (hn : n ≤ 15) {x y : RegIdx} {s : State}
    (hx : (drawn x y n s).v.get x = s.v.get x) (hy : (drawn x y n s).v.get y = s.v.get y) :
    (drawn x y n (drawn x y n s)).disp = s.disp := by
  refine display_ext fun cx cy => ?_
  have hfirst := drawSprite_changes hn x y s cx cy
  have hsecond := drawSprite_changes hn x y (drawn x y n s) cx cy
  have hsame : DrawBit x y n (drawn x y n s) cx cy ↔ DrawBit x y n s cx cy := by
    simp only [DrawBit, State.getV, hx, hy]
    rfl
  rw [hsame, ← hfirst] at hsecond
  exact bool_eq_of_ne_iff hsecond

/-- Against a clear display, a display differs exactly if it has a cell that is 1. -/
theorem exists_set_iff_disp_ne {d e : Display} (hclear : ∀ cx cy, Display.cell d cx cy = false) :
    (∃ cx cy, Display.cell e cx cy = true ∧ Display.cell d cx cy = false) ↔ ¬ e = d := by
  refine ⟨?_, fun hne => ?_⟩
  · rintro ⟨cx, cy, hset, hgone⟩ rfl
    rw [hgone] at hset
    cases hset
  · by_contra hnone
    refine hne (display_ext fun cx cy => ?_)
    rw [hclear, ← Bool.not_eq_true]
    exact fun hset => hnone ⟨cx, cy, hset, hclear cx cy⟩

theorem eq_xor_decide {a b : Bool} {P : Prop} [Decidable P] (h : a ≠ b ↔ P) : a = (b ^^ decide P) := by
  simp only [← h]
  cases a <;> cases b <;> decide

/-! ## The obligations -/

/-- Settles O32: a cell is inverted exactly if a bit of the sprite lands on it, and vF reports the collision. -/
theorem drawXorsTheSpriteCells : Obligations.DrawXorsTheSpriteCells := by
  unfold Obligations.DrawXorsTheSpriteCells
  intro x y n s hn hspan
  exact ⟨drawn x y n s, exec_drw_inside x y hspan,
    fun cx cy => eq_xor_decide ((drawSprite_changes hn x y s cx cy).trans (drawBit_iff hn x y s cx cy)),
    vF_drawn hn x y s, fun r hr => (getV_drawn x y n s r).trans (if_neg hr), rfl⟩

/-- Settles O33: the bounds check of the rows, which has nothing to check for height 0. -/
theorem drawOutsideMemoryFaults : Obligations.DrawOutsideMemoryFaults := by
  unfold Obligations.DrawOutsideMemoryFaults
  refine fun x y n s => ⟨fun hpos h => checkSpan_outside hpos ?outside,
    drawn x y 0 s, exec_drw_inside x y (.inl rfl), rfl, getV_drawn x y 0 s 15, rfl, rfl⟩
  case outside => simp only [State.indexAddr]; omega

/-- Settles O34: both draws change the same cells; the collisions are read off the clear display and the restored
one. -/
theorem drawingTwiceRestoresTheDisplay : Obligations.DrawingTwiceRestoresTheDisplay := by
  unfold Obligations.DrawingTwiceRestoresTheDisplay
  intro x y n s t hn hspan h hx hy
  obtain rfl := Host.Outcome.next.inj ((exec_drw_inside x y hspan).symm.trans h)
  have hback := disp_drawn_drawn hn hx hy
  refine ⟨⟨drawn x y n (drawn x y n s), exec_drw_inside x y hspan, hback, fun hclear => ?second⟩, fun hclear => ?first⟩
  case first =>
    rw [vF_drawn hn, if_neg]
    rintro ⟨cx, cy, hold, _⟩
    exact Bool.false_ne_true ((hclear cx cy).symm.trans hold)
  case second =>
    rw [vF_drawn hn, hback, if_congr (exists_set_iff_disp_ne hclear) rfl rfl, ite_not]

end Sys2Proof.Machine
end

section
/-! PROOFS. Load (70_reset_and_hazards.md section 1) and the display interface (44_display.md section 4). -/

namespace Sys2Proof.Machine

/-! ## The memory Load leaves -/

theorem wf_fontImage (font : Vector Byte 80) : (Memory.writeBytes [] 0 font.toList).wf = true :=
  Memory.wf_writeBytes (by simp) rfl

theorem read_loadImage_font (font : Vector Byte 80) (rom : List Byte) (a : Fin 80) :
    (loadImage font rom).read a.val = font.get a := by
  have ha := a.isLt
  have hlen : font.toList.length = 80 := font.length_toList
  rw [loadImage, Memory.read_writeBytes_outside _ (.inl (by simp only [Config.romBase]; omega)), ← Nat.zero_add a.val,
    Memory.read_writeBytes_inside rfl (by omega) (by omega)]
  exact Vector.getElem_toList _

theorem read_loadImage_rom (font : Vector Byte 80) {rom : List Byte} (h : 0x200 + rom.length ≤ 4096)
    (j : Fin rom.length) : (loadImage font rom).read (0x200 + j.val) = rom.get j :=
  Memory.read_writeBytes_inside (wf_fontImage font) h j.isLt

/-- The default font is 80 bytes, so above it an unlisted address reads as 0. -/
theorem resetByte_of_le {a : Nat} (h : 80 ≤ a) : resetByte a = 0 := List.getD_eq_default _ _ h

theorem read_loadImage_zero (font : Vector Byte 80) {rom : List Byte} {a : Nat} (hfont : 80 ≤ a)
    (hrom : a < 0x200 ∨ 0x200 + rom.length ≤ a) : (loadImage font rom).read a = 0 := by
  have hlen : font.toList.length = 80 := font.length_toList
  rw [loadImage, Memory.read_writeBytes_outside _ hrom, Memory.read_writeBytes_outside _ (.inr (by omega))]
  exact resetByte_of_le hfont

/-! ## The default font as the font -/

/-- The default font, written where it already stands, is no cell. -/
theorem writeBytes_nil_defaultFont : Memory.writeBytes [] 0 defaultFont = [] := by decide

/-! ## A Load that fails -/

theorem transact_load_too_long (font : Vector Byte 80) {rom : List Byte} (s : State) (h : rom.length ≥ 3585) :
    transact (.load font rom) s = .fault (.loadError rom.length) := by
  rw [transact, load_too_long s (by omega)]
  rfl

/-! ## The obligations -/

/-- Settles O55: the reset state with the image in memory, read at the font, at the ROM and elsewhere. -/
theorem loadBuildsTheResetState : Obligations.LoadBuildsTheResetState := by
  unfold Obligations.LoadBuildsTheResetState
  intro font rom s h
  refine ⟨_, load_eq s h, wf_loadImage h, read_loadImage_font font rom, read_loadImage_rom font h,
    fun a => read_loadImage_zero font, ?registers, rfl, rfl, rfl, cell_blank, rfl, ?keys, rfl, rfl, rfl, rfl, rfl, rfl,
    rfl⟩
  case registers => exact fun r => Vector.getElem_replicate r.isLt
  case keys => exact fun k => Vector.getElem_replicate k.isLt

/-- Settles O56: a ROM that does not fit fails from any core, the default font is no cell of memory, and without a VM
state Load alone is accepted. -/
theorem loadAtItsLimits : Obligations.LoadAtItsLimits := by
  unfold Obligations.LoadAtItsLimits
  refine ⟨fun font rom s h => ?tooLong, fun font hfont => ?empty, fun font rom v h => ?noState, fun c t ht => ?refused,
    fun c font rom h => ?again⟩
  case tooLong => exact transact_load_too_long font s h
  case empty =>
    rw [load_eq _ (by decide), loadImage, hfont, writeBytes_nil_defaultFont]
    rfl
  case noState =>
    cases v with
    | present s => exact ⟨s.carried, by rw [transactVm, transact_load_too_long font s h]; rfl⟩
    | absent c => exact ⟨c, by rw [transactVm, transact_load_too_long font c.fresh h]; rfl⟩
  case refused =>
    cases t with
    | load font rom => exact absurd rfl (ht font rom)
    | _ => rfl
  case again =>
    refine ⟨_, load_eq _ h, ?_⟩
    rw [transactVm, transact, load_eq _ h]
    rfl

/-- Settles O57: the read keeps the state, the acknowledgement clears the flag. -/
theorem displayIsReadAndAcknowledged : Obligations.DisplayIsReadAndAcknowledged := by
  unfold Obligations.DisplayIsReadAndAcknowledged
  exact fun s => ⟨rfl, rfl⟩

end Sys2Proof.Machine
end
